-- ==== Sys2Proof/Word.lean ====
section
/-! DEFINITION. The widths of LCG48 (spec/00_scope.md R6, spec/10_state.md R19). -/

namespace Sys2Proof

/-- The command word (R36). -/
abbrev Word16 := BitVec 16

/-- A bound, a coordinate, a 32-bit draw, a binary32 pattern (R6, R19). -/
abbrev Word32 := BitVec 32

/-- The content of the register `state` (R12, R13). -/
abbrev Word48 := BitVec 48

/-- A seed or salt container, and `rsp_data` (R6, R19). -/
abbrev Word64 := BitVec 64

end Sys2Proof
end

