-- ==== Sys2Proof/Syntax.lean ====
section
/-! DEFINITION. The seven commands of LCG48 (spec/00_scope.md R3, spec/30_encoding.md R38, R39) and the form in which
the host presents one (R35). -/

namespace Sys2Proof

/-- One command, with exactly the operands it uses (R38; a port a command does not use is not carried, U9). -/
inductive Instr where
  /-- `SETSEED a` (R48): `a` is the seed. -/
  | setseed (a : Word64)
  /-- `NEXT bits` (R49): `imm6` is the field `IMM6`, its unsigned value the number of bits (R37). -/
  | next (imm6 : BitVec 6)
  /-- `NEXTINT b` (R52): `b` is the bound, signed. -/
  | nextint (b : Word32)
  /-- `NEXTLONG` (R58). -/
  | nextlong
  /-- `NEXTFLOAT` (R59). -/
  | nextfloat
  /-- `SETREGION a, b, c, d` (R62): structure seed, region x, region z, salt. -/
  | setregion (a : Word64) (b c : Word32) (d : Word64)
  /-- `SETCARVER a, b, c` (R64): world seed, chunk x, chunk z. -/
  | setcarver (a : Word64) (b c : Word32)
  deriving DecidableEq, Repr

/-- The names of the opcode map's rows (R39). -/
inductive Mnemonic where
  | SETSEED | NEXT | NEXTINT | NEXTLONG | NEXTFLOAT | SETREGION | SETCARVER
  deriving DecidableEq, Repr

/-- A command as the ports carry it when it is accepted: the tuple of R35. -/
structure Command where
  /-- `cmd_word[15:0]` -/
  word : Word16
  /-- `cmd_a[63:0]` -/
  a : Word64
  /-- `cmd_b[31:0]` -/
  b : Word32
  /-- `cmd_c[31:0]` -/
  c : Word32
  /-- `cmd_d[63:0]` -/
  d : Word64
  deriving DecidableEq, Repr

/-- Why a command word selects no row (R40). Every one of them is answered with `ILLEGAL_COMMAND`. -/
inductive Reject where
  /-- `OPC = 0x00` or `OPC` from 0x08 to 0xFF. -/
  | unassignedOpcode
  /-- a listed `OPC` with `RSV` not zero. -/
  | reservedBitsSet
  /-- a listed `OPC` other than `NEXT`'s with `IMM6` not zero. -/
  | immediateNotZero
  deriving DecidableEq, Repr

/-- The row of R39 a command belongs to. -/
def Instr.mnemonic : Instr → Mnemonic
  | .setseed _ => .SETSEED
  | .next _ => .NEXT
  | .nextint _ => .NEXTINT
  | .nextlong => .NEXTLONG
  | .nextfloat => .NEXTFLOAT
  | .setregion _ _ _ _ => .SETREGION
  | .setcarver _ _ _ => .SETCARVER

end Sys2Proof
end

