-- ==== Sys2Proof/WellFormed.lean ====
section
/-! DEFINITION. The documented domain of each command (spec/60_exceptions.md R66, R68): outside it the block answers
`ILLEGAL_OPERAND`. A command outside its domain still has an encoding and a meaning (R70); this predicate says which
commands are inside. -/

namespace Sys2Proof

/-- R66: `NEXT` with `1 ≤ bits ≤ 32`, `NEXTINT` with `0 ≤ bound`, the others with any operands. -/
def Instr.wf : Instr → Bool
  | .setseed _ => true
  | .next imm6 => decide (1 ≤ imm6.toNat) && decide (imm6.toNat ≤ 32)
  | .nextint b => decide (0 ≤ b.toInt)
  | .nextlong => true
  | .nextfloat => true
  | .setregion _ _ _ _ => true
  | .setcarver _ _ _ => true

end Sys2Proof
end

