-- ==== Sys2Proof/Decode.lean ====
section
/-! DEFINITION. From the command word and the operand ports to a command and back (spec/30_encoding.md R35 to R40).
The opcode map is R39's table of match and mask; decoding is total and rejects by name (R40). -/

namespace Sys2Proof

/-- One row of the opcode map (R39): a word `w` selects it when `w AND mask = pattern`. -/
structure Row where
  name : Mnemonic
  pattern : Word16
  mask : Word16
  deriving DecidableEq, Repr

/-- The opcode map (R39). -/
def opcodeRows : List Row :=
  [ ⟨.SETSEED, 0x0100#16, 0xFFFF#16⟩,
    ⟨.NEXT, 0x0200#16, 0xFFC0#16⟩,
    ⟨.NEXTINT, 0x0300#16, 0xFFFF#16⟩,
    ⟨.NEXTLONG, 0x0400#16, 0xFFFF#16⟩,
    ⟨.NEXTFLOAT, 0x0500#16, 0xFFFF#16⟩,
    ⟨.SETREGION, 0x0600#16, 0xFFFF#16⟩,
    ⟨.SETCARVER, 0x0700#16, 0xFFFF#16⟩ ]

/-- R39: `(w AND mask) = match`. -/
def Row.selects (r : Row) (w : Word16) : Bool := w &&& r.mask == r.pattern

/-- The row a word selects, if any (R39). -/
def selectRow (w : Word16) : Option Row := opcodeRows.find? (fun r => r.selects w)

/-- `OPC`, `cmd_word[15:8]` (R36). -/
def opc (w : Word16) : BitVec 8 := w.extractLsb' 8 8

/-- `RSV`, `cmd_word[7:6]` (R36). -/
def rsv (w : Word16) : BitVec 2 := w.extractLsb' 6 2

/-- `IMM6`, `cmd_word[5:0]` (R36). -/
def imm6 (w : Word16) : BitVec 6 := w.extractLsb' 0 6

/-- The command of a selected row, its operands taken from the ports the row uses (R38). -/
def takeOperands (m : Mnemonic) (c : Command) : Instr :=
  match m with
  | .SETSEED => .setseed c.a
  | .NEXT => .next (imm6 c.word)
  | .NEXTINT => .nextint c.b
  | .NEXTLONG => .nextlong
  | .NEXTFLOAT => .nextfloat
  | .SETREGION => .setregion c.a c.b c.c c.d
  | .SETCARVER => .setcarver c.a c.b c.c

/-- Which clause of R40 an illegal word falls under. -/
def rejectReason (w : Word16) : Reject :=
  if opc w = 0 ∨ 8 ≤ (opc w).toNat then .unassignedOpcode
  else if rsv w ≠ 0 then .reservedBitsSet
  else .immediateNotZero

/-- The decoder of R39. -/
def decode (c : Command) : Except Reject Instr :=
  match selectRow c.word with
  | some r => .ok (takeOperands r.name c)
  | none => .error (rejectReason c.word)

/-- The encoder (R37, R39); the ports a command does not use are zero, as in the listings (R44). -/
def encode (i : Instr) : Command :=
  match i with
  | .setseed a => ⟨0x0100#16, a, 0, 0, 0⟩
  | .next n => ⟨0x0200#16 ||| n.setWidth 16, 0, 0, 0, 0⟩
  | .nextint b => ⟨0x0300#16, 0, b, 0, 0⟩
  | .nextlong => ⟨0x0400#16, 0, 0, 0, 0⟩
  | .nextfloat => ⟨0x0500#16, 0, 0, 0, 0⟩
  | .setregion a b c d => ⟨0x0600#16, a, b, c, d⟩
  | .setcarver a b c => ⟨0x0700#16, a, b, c, 0⟩

/-- The command whose word is the low `nbits` bits of `w` (all of R39's rows have 16), operand ports zero. -/
def tableCommand (nbits w : Nat) : Command := ⟨BitVec.ofNat 16 (w % 2 ^ nbits), 0, 0, 0, 0⟩

/-- What the decoder reads from a row's bits as spec/opcode_table.json numbers them. -/
def decodeTableWord (nbits w : Nat) : Option Instr :=
  match decode (tableCommand nbits w) with
  | .ok i => some i
  | .error _ => none

end Sys2Proof
end

