-- ==== Sys2Proof/Machine/Arith.lean ====
section
/-! DEFINITION. The notation of spec/00_scope.md R9 and R10 that the commands use. `u(v)` is `v.toNat`, `s(v)` is
`v.toInt`, `>>` and `>>a` are the shifts of Nat and Int, exact integers are Int and Nat. -/

namespace Sys2Proof.Machine

/-- `wrap_N(i)`: the `N`-bit vector whose unsigned value is `i mod 2^N` (R9). -/
def wrap (n : Nat) (i : Int) : BitVec n := BitVec.ofInt n i

/-- `s32(i)` (R9). -/
def s32 (i : Int) : Int := (wrap 32 i).toInt

/-- `s64(i)` (R9). -/
def s64 (i : Int) : Int := (wrap 64 i).toInt

/-- `sext_64` of a 32-bit vector (R9). -/
def sext64 (v : Word32) : Word64 := v.signExtend 64

/-- `zext_64` of a 32-bit vector (R9). -/
def zext64 (v : Word32) : Word64 := v.setWidth 64

end Sys2Proof.Machine
end

