-- ==== Sys2Proof/Machine/Operands.lean ====
section
/-! DEFINITION. How each operand is read from its port (spec/30_encoding.md R37, R38) and how each result is laid out
in `rsp_data` (R43, spec/41_derived_draws.md R60). -/

namespace Sys2Proof.Machine

/-- `bits = u(IMM6)` (R37). -/
def bitsOperand (n : BitVec 6) : Nat := n.toNat

/-- `bound = s(cmd_b)` (R38). -/
def boundOperand (b : Word32) : Int := b.toInt

/-- A coordinate on `cmd_b` or `cmd_c`: signed 32-bit (R38). -/
def coordOperand (v : Word32) : Int := v.toInt

/-- A seed or salt on `cmd_a` or `cmd_d`: 64-bit two's complement (R38). -/
def seedOperand (v : Word64) : Int := v.toInt

/-- A signed 32-bit result: `sext_64(wrap_32(r))` (R43). -/
def result32 (r : Int) : Word64 := sext64 (wrap 32 r)

/-- A signed 64-bit result: `wrap_64(r)` (R43). -/
def result64 (r : Int) : Word64 := wrap 64 r

/-- The binary32 pattern of `k / 2^24` (R60), for `k < 2^24`. -/
def f32bits (k : Nat) : Word32 :=
  if k = 0 then 0
  else
    let p := Nat.log2 k
    BitVec.ofNat 32 (((p + 103) <<< 23) ||| ((k - 2 ^ p) <<< (23 - p)))

/-- A single-precision result of value `k / 2^24`: `zext_64(f32bits(k))` (R43, R59). -/
def resultF32 (k : Nat) : Word64 := zext64 (f32bits k)

/-- The number a binary32 pattern stands for, for the patterns of zero and of normal numbers, the only ones the block
produces (R59, R60): sign bit 31, exponent bits 30:23 with bias 127, fraction bits 22:0.
PRESUMED: log entry 11. No command uses it. -/
def f32value (v : Word32) : ℚ :=
  let sign : ℚ := if v.msb then -1 else 1
  let expo := (v.extractLsb' 23 8).toNat
  let frac := (v.extractLsb' 0 23).toNat
  if expo = 0 then 0 else sign * (1 + (frac : ℚ) / 2 ^ 23) * (2 : ℚ) ^ ((expo : Int) - 127)

end Sys2Proof.Machine
end

