-- ==== Sys2Proof/Machine/Flags.lean ====
section
/-! DEFINITION. The block has no flags (spec/10_state.md R16). What a command decides by are these tests: the operand
domains behind the status (spec/60_exceptions.md R68), the power-of-two test and the acceptance test of `NEXTINT`
(spec/41_derived_draws.md R52, R53). -/

namespace Sys2Proof.Machine

/-- `1 ≤ bits ≤ 32` (R37, R68). -/
def bitsInDomain (bits : Nat) : Bool := decide (1 ≤ bits) && decide (bits ≤ 32)

/-- `bound ≥ 0` (R52, R68). -/
def boundInDomain (bound : Int) : Bool := decide (0 ≤ bound)

/-- The power-of-two test in its bitwise form, which zero passes (R53, decision D23). -/
def isPow2OrZero (bound : Int) : Bool := wrap 32 bound &&& wrap 32 (-bound) == wrap 32 bound

/-- The acceptance test of the rejection loop, the sum wrapped to signed 32 bits (R52, decision D12). -/
def accepts (bits val bound : Int) : Bool := decide (0 ≤ s32 (bits - val + (bound - 1)))

end Sys2Proof.Machine
end

