-- ==== Sys2Proof/Config.lean ====
section
/-! DEFINITION. What is fixed for the block (spec/00_scope.md R5), the parameters of R7, and the free values:
constants without a body, of which nothing can be proved but that they are the value they are. -/

namespace Sys2Proof

/-- `MULT` (R5). -/
def Config.mult : Nat := 25214903917

/-- `ADD` (R5). -/
def Config.add : Nat := 11

/-- `MASK`, `2^48 - 1` (R5). -/
def Config.mask : Nat := 281474976710655

/-- `XOR` (R5): the same literal as `MULT`. -/
def Config.xor : Nat := 25214903917

/-- `MULT_A` (R5). -/
def Config.multA : Int := 341873128712

/-- `MULT_B` (R5). -/
def Config.multB : Int := 132897987541

/-- `MULT_INV` (R5): used by no command, only by the law R51. -/
def Config.multInv : Nat := 246154705703781

/-- `NEXTINT_FUEL` (R7, R57, U12): how many draws the model lets `NEXTINT`'s rejection loop take. R57 gives `2^48` as
the number of draws after which the loop has ended from every state, so this number leaves out no behaviour of the
hardware, which has no limit. DEDUCED, safe: log entry 5. -/
def Config.nextintFuel : Nat := 2 ^ 48

/-- FREE VALUE. `RESET_STATE` (R7, R22, U1): what `state` holds after the reset with this number; no two resets are
assumed to give the same value. DESIGN CHOICE: log entries 1 and 2. -/
opaque Config.resetState : Nat → Word48

/-- FREE VALUE. What `rsp_status` shows while `rsp_valid = 0` (R82, U7). DESIGN CHOICE: log entry 7. -/
opaque Config.idleRspStatus : Nat → BitVec 2

/-- FREE VALUE. What `rsp_data` shows while `rsp_valid = 0` (R82, U7). DESIGN CHOICE: log entry 7. -/
opaque Config.idleRspData : Nat → Word64

end Sys2Proof
end

