-- ==== Sys2Proof/Machine/State.lean ====
section
/-! DEFINITION. The state of one instance of LCG48 (spec/10_state.md R12 to R22), what its response port shows, and
what the host does next (spec/70_reset_and_hazards.md R89, R90). -/

namespace Sys2Proof.Machine

/-- The status codes (spec/60_exceptions.md R67); the fourth code is never produced. -/
inductive Status where
  | ok
  | illegalCommand
  | illegalOperand
  deriving DecidableEq, Repr

/-- The response to one command, `(rsp_status, rsp_data)` (spec/30_encoding.md R42). -/
structure Response where
  status : Status
  data : Word64
  deriving DecidableEq, Repr

/-- What the host can do to the block (R89), as one move. -/
inductive HostEvent where
  /-- A command presented and accepted (R85); these are the values of the ports at acceptance. -/
  | command (c : Command)
  /-- `rst` asserted while no command is in progress (R81). -/
  | reset
  /-- `rst` asserted while this accepted command is in progress: it is abandoned (R81, U11). -/
  | resetDuring (c : Command)
  /-- A cycle without a command; the host may read the outputs, which has no effect (R89). -/
  | idle
  deriving DecidableEq, Repr

/-- One instance of the block between two steps, with what the host will do to it. -/
structure State where
  /-- `state`, the one architectural register (R12). -/
  state : Word48
  /-- The response port: `some` exactly when `rsp_valid = 1` (R19, R42, R85). -/
  rsp : Option Response
  /-- The responses of the run so far, in command order (R29, R90). -/
  responses : List Response
  /-- What the host does next, first things first (R89, R90). -/
  host : List HostEvent
  /-- THE MODEL'S OWN: what the free values of Config are applied to; it advances at each reset and idle cycle. -/
  fresh : Nat
  deriving DecidableEq, Repr

/-- Why a step can stop. -/
inductive Fault where
  /-- Raised by `execNextint` alone, when the rejection loop has used up `Config.nextintFuel` draws (R57, U12): a
  fault of the model and never a behaviour of the hardware. SAFE: the hardware always ends within that many draws. -/
  | nextintFuelExhausted
  deriving DecidableEq, Repr

/-- Why a step can be turned away. -/
inductive Refusal where
  /-- Answered by `exec`'s arm of an instruction that has no meaning yet, and by nothing else. SAFE. Every arm has its
  meaning, so it is never answered. -/
  | notModelled (mnemonic : String)
  deriving DecidableEq, Repr

/-- Right after reset (R22, R82): `state` unknown, no response present, nothing answered or presented yet.
DESIGN CHOICE: log entries 1 to 4. -/
def State.reset : State :=
  { state := Config.resetState 0, rsp := none, responses := [], host := [], fresh := 0 }

end Sys2Proof.Machine
end

