-- ==== Sys2Proof/Machine/Ops.lean ====
section
/-! DEFINITION. The operations every command is made of: the step function and the scramble (spec/40_core_lcg.md R46,
R47), the internal procedures `next` and `next_long` (R49, R58) and the rejection loop (R52), answering a command
(spec/00_scope.md R11) and answering it with an error (spec/60_exceptions.md R70), reset and the idle cycle
(spec/70_reset_and_hazards.md R81, R85). There is no return from an error: nothing was saved (R71). -/

namespace Sys2Proof.Machine

/-- `lcg_step(s) = (s × MULT + ADD) AND MASK` (R46). A product with a constant is written constant first, here and below:
Lean's kernel recurses on a second factor that is a numeral. -/
def lcgStep (s : Word48) : Word48 :=
  BitVec.ofNat 48 ((Config.mult * s.toNat + Config.add) &&& Config.mask)

/-- `lcg_unstep(t) = ((t − ADD) × MULT_INV) mod 2^48` (R51). No command computes it. -/
def lcgUnstep (t : Word48) : Word48 :=
  wrap 48 ((Config.multInv : Int) * ((t.toNat : Int) - (Config.add : Int)))

/-- `scramble(v) = (v XOR XOR) AND MASK` (R47). -/
def scramble (v : Word64) : Word48 :=
  BitVec.ofNat 48 ((v.toNat ^^^ Config.xor) &&& Config.mask)

/-- `next(bits)` (R49): one LCG step; the top `bits` bits of the new state as a signed 32-bit integer, and the new
state. -/
def next (bits : Nat) (st : Word48) : Int × Word48 :=
  let st' := lcgStep st
  let t := st'.toNat >>> (48 - bits)
  (s32 t, st')

/-- `next_long()` (R58): the first draw is the high word, the second enters the sum with its sign. -/
def nextLong (st : Word48) : Int × Word48 :=
  let hi := next 32 st
  let lo := next 32 hi.2
  (s64 (2 ^ 32 * hi.1 + lo.1), lo.2)

/-- `NEXTINT`'s rejection loop (R52), at most `fuel` draws (R57): the accepted `val` and the state after its draw;
`none` when the fuel is used up. -/
def nextintLoop (bound : Int) : Nat → Word48 → Option (Int × Word48)
  | 0, _ => none
  | fuel + 1, st =>
    let d := next 31 st
    let val := d.1 % bound
    if accepts d.1 val bound then some (val, d.2) else nextintLoop bound fuel d.2

/-- `respond(status, data)` (R11): the response stands on the port and joins the run's responses (R90). -/
def State.respond (s : State) (status : Status) (data : Word64) : State :=
  { s with rsp := some ⟨status, data⟩, responses := s.responses ++ [⟨status, data⟩] }

/-- A command that is performed: the new content of `state` and the response `(OK, data)`. -/
def State.complete (s : State) (st : Word48) (data : Word64) : State :=
  ({ s with state := st } : State).respond .ok data

/-- The block's whole "trap entry" (R70): `state` unchanged, the response `(status, 0)`, nothing saved, ready for the
next command. -/
def State.takeError (s : State) (status : Status) : State := s.respond status 0

/-- What is left of the host's list once its first entry has happened. -/
def State.withHost (s : State) (rest : List HostEvent) : State := { s with host := rest }

/-- A cycle without a command: `state` stays (R80), the response, present for one cycle only, is gone (R85). -/
def State.idleCycle (s : State) : State := { s with rsp := none, fresh := s.fresh + 1 }

/-- `rst` (R81, R82): `state` unknown, no response present, a command in progress forgotten; a new run begins (R90). -/
def State.assertReset (s : State) : State :=
  { s with state := Config.resetState (s.fresh + 1), rsp := none, responses := [], fresh := s.fresh + 1 }

end Sys2Proof.Machine
end

