-- ==== Sys2Proof/Machine/Composite.lean ====
section
/-! DEFINITION. Composite seeding, `SETREGION` and `SETCARVER` (spec/42_composite_seeding.md R62, R64). -/

namespace Sys2Proof.Machine

/-- The mix `SETREGION` seeds with: the exact sum, wrapped to 64 bits once (R62). -/
def regionMix (a : Word64) (b c : Word32) (d : Word64) : Word64 :=
  wrap 64 (Config.multA * coordOperand b + Config.multB * coordOperand c + seedOperand a + seedOperand d)

/-- `SETREGION a, b, c, d` (R62). -/
def execSetregion (a : Word64) (b c : Word32) (d : Word64) (s : State) : Host.Outcome State Fault Refusal :=
  .next (s.complete (scramble (regionMix a b c d)) 0)

/-- The mix `SETCARVER` reseeds with (R64): the two longs drawn after seeding with `a`, times the coordinates, each
product wrapped to 64 bits, and the world seed. -/
def carverMix (a : Word64) (b c : Word32) : Word64 :=
  let la := nextLong (scramble a)
  let lb := nextLong la.2
  wrap 64 (coordOperand b * la.1) ^^^ wrap 64 (coordOperand c * lb.1) ^^^ a

/-- `SETCARVER a, b, c` (R64). -/
def execSetcarver (a : Word64) (b c : Word32) (s : State) : Host.Outcome State Fault Refusal :=
  .next (s.complete (scramble (carverMix a b c)) 0)

end Sys2Proof.Machine
end

