-- ==== Sys2Proof/Machine/Draws.lean ====
section
/-! DEFINITION. The derived draws, `NEXTINT`, `NEXTLONG` and `NEXTFLOAT` (spec/41_derived_draws.md R52, R58, R59). -/

namespace Sys2Proof.Machine

/-- `NEXTINT b` (R52 to R57). -/
def execNextint (b : Word32) (s : State) : Host.Outcome State Fault Refusal :=
  let bound := boundOperand b
  if boundInDomain bound then
    if isPow2OrZero bound then
      let d := next 31 s.state
      .next (s.complete d.2 (result32 (s32 ((bound * d.1) >>> (31 : Nat)))))
    else
      match nextintLoop bound Config.nextintFuel s.state with
      | some d => .next (s.complete d.2 (result32 d.1))
      | none => .fault .nextintFuelExhausted
  else .next (s.takeError .illegalOperand)

/-- `NEXTLONG` (R58). -/
def execNextlong (s : State) : Host.Outcome State Fault Refusal :=
  let d := nextLong s.state
  .next (s.complete d.2 (result64 d.1))

/-- `NEXTFLOAT` (R59, R60). -/
def execNextfloat (s : State) : Host.Outcome State Fault Refusal :=
  let d := next 24 s.state
  .next (s.complete d.2 (resultF32 d.1.toNat))

end Sys2Proof.Machine
end

