-- ==== Sys2Proof/Machine/Lcg.lean ====
section
/-! DEFINITION. The core generator's commands, `SETSEED` and `NEXT` (spec/40_core_lcg.md R48, R49). -/

namespace Sys2Proof.Machine

/-- `SETSEED a` (R48). -/
def execSetseed (a : Word64) (s : State) : Host.Outcome State Fault Refusal :=
  .next (s.complete (scramble a) 0)

/-- `NEXT bits` (R49); outside `1 ≤ bits ≤ 32` `ILLEGAL_OPERAND` (R37, R68). -/
def execNext (n : BitVec 6) (s : State) : Host.Outcome State Fault Refusal :=
  let bits := bitsOperand n
  if bitsInDomain bits then
    let d := next bits s.state
    .next (s.complete d.2 (result32 d.1))
  else .next (s.takeError .illegalOperand)

end Sys2Proof.Machine
end

