-- ==== Sys2Proof/Machine/Dispatch.lean ====
section
/-! DEFINITION. One arm per command of LCG48, each one call of its meaning. -/

namespace Sys2Proof.Machine

def exec (i : Instr) (s : State) : Host.Outcome State Fault Refusal :=
  match i with
  | .setseed a => Sys2Proof.Machine.execSetseed a s
  | .next n => Sys2Proof.Machine.execNext n s
  | .nextint b => Sys2Proof.Machine.execNextint b s
  | .nextlong => Sys2Proof.Machine.execNextlong s
  | .nextfloat => Sys2Proof.Machine.execNextfloat s
  | .setregion a b c d => Sys2Proof.Machine.execSetregion a b c d s
  | .setcarver a b c => Sys2Proof.Machine.execSetcarver a b c s

end Sys2Proof.Machine
end

