-- ==== Sys2Proof/Machine/Step.lean ====
section
/-! DEFINITION. One step: the next thing the host does happens to the block, in the order presented
(spec/20_memory.md R26, R29; spec/70_reset_and_hazards.md R81, R89, R90). -/

namespace Sys2Proof.Machine

/-- An accepted command (R35): decoded and performed, or, where its word selects no row, answered with
`ILLEGAL_COMMAND` (R40, R69, R70). -/
def runCommand (c : Command) (s : State) : Host.Outcome State Fault Refusal :=
  match decode c with
  | .ok i => exec i s
  | .error _ => .next (s.takeError .illegalCommand)

/-- The block never stops of its own accord (R90): with nothing left of the host's list it idles. -/
def step (s : State) : Host.Outcome State Fault Refusal :=
  match s.host with
  | [] => .next s.idleCycle
  | .idle :: rest => .next (s.withHost rest).idleCycle
  | .reset :: rest => .next (s.withHost rest).assertReset
  | .resetDuring _ :: rest => .next (s.withHost rest).assertReset
  | .command c :: rest => runCommand c (s.withHost rest)

/-- The command with this word and operand ports zero, presented as the very next thing the host does (log
entry 3). -/
def State.withFetchWord (s : State) (nbits w : Nat) : State :=
  s.withHost (.command (tableCommand nbits w) :: s.host)

end Sys2Proof.Machine
end

