-- ==== Sys2Proof/Machine/Ports.lean ====
section
/-! DEFINITION. What the host reads on the output ports between two steps (spec/10_state.md R19, R20): views of the
state, no storage. What they show during a command is not modelled. DESIGN CHOICE: log entry 8. -/

namespace Sys2Proof.Machine

/-- The code of a status (spec/60_exceptions.md R67). -/
def Status.code : Status → BitVec 2
  | .ok => 0b00
  | .illegalCommand => 0b01
  | .illegalOperand => 0b10

/-- `cmd_ready`: between two steps no command is in progress (R20, R82, R85). -/
def State.cmdReady (_s : State) : Bool := true

/-- `rsp_valid` (R19, R42). -/
def State.rspValid (s : State) : Bool := s.rsp.isSome

/-- `rsp_status`: free while `rsp_valid = 0` (R42, U7). -/
def State.rspStatus (s : State) : BitVec 2 :=
  match s.rsp with
  | some r => r.status.code
  | none => Config.idleRspStatus s.fresh

/-- `rsp_data`: free while `rsp_valid = 0` (R42, U7). -/
def State.rspData (s : State) : Word64 :=
  match s.rsp with
  | some r => r.data
  | none => Config.idleRspData s.fresh

/-- `state_o`: exactly `state` while no command is in progress (R20, R86). -/
def State.stateO (s : State) : Word48 := s.state

end Sys2Proof.Machine
end

