-- ==== Sys2Proof/Machine/System.lean ====
section
/-! DEFINITION. Several instances of the block (spec/20_memory.md R34, spec/60_exceptions.md R78): a list of states, one
for each instance; `N_INST` (R7) is its length. They share nothing, so one instance moves and the others stay. Which
one moves is the reader's choice: nothing orders commands of different instances. DESIGN CHOICE:
log entry 9. -/

namespace Sys2Proof.Machine

/-- One step of the instance numbered `k`. -/
def systemStep (sys : List State) (k : Fin sys.length) : Host.Outcome (List State) Fault Refusal :=
  match step sys[k] with
  | .next t => .next (sys.set k t)
  | .fault f => .fault f
  | .refused r => .refused r

end Sys2Proof.Machine
end

