-- ==== Sys2Proof/Safety.lean ====
section
/-! DEFINITION. What counts as a good run (spec/70_reset_and_hazards.md R83, R90; spec/60_exceptions.md R68), and the
invariant of the response port. The hardware performs every command it is given; these predicates say which runs the
spec's claims are about. DESIGN CHOICE: log entry 6. -/

namespace Sys2Proof.Machine

/-- `k` steps of the block, stopping at the first fault or refusal: a run, as far as it has come (R90). -/
def runSteps : Nat → State → Host.Outcome State Fault Refusal
  | 0, s => .next s
  | k + 1, s =>
    match step s with
    | .next t => runSteps k t
    | .fault f => .fault f
    | .refused r => .refused r

/-- The three seeding commands (R83). -/
def isSeeding : Instr → Bool
  | .setseed _ => true
  | .next _ => false
  | .nextint _ => false
  | .nextlong => false
  | .nextfloat => false
  | .setregion _ _ _ _ => true
  | .setcarver _ _ _ => true

/-- R83 for what the host does next, `seeded` saying whether a seeding command has completed since the last reset: no
draw comes before a seeding command. -/
def seedsBeforeDrawing (seeded : Bool) : List HostEvent → Bool
  | [] => true
  | .idle :: rest => seedsBeforeDrawing seeded rest
  | .reset :: rest => seedsBeforeDrawing false rest
  | .resetDuring _ :: rest => seedsBeforeDrawing false rest
  | .command c :: rest =>
    match decode c with
    | .ok i => if isSeeding i then seedsBeforeDrawing true rest else seeded && seedsBeforeDrawing seeded rest
    | .error _ => seedsBeforeDrawing seeded rest

/-- Whether every command the host presents is legal and inside its domain (R66, R68). -/
def commandsInDomain : List HostEvent → Bool
  | [] => true
  | .idle :: rest => commandsInDomain rest
  | .reset :: rest => commandsInDomain rest
  | .resetDuring _ :: rest => commandsInDomain rest
  | .command c :: rest =>
    match decode c with
    | .ok i => i.wf && commandsInDomain rest
    | .error _ => false

/-- R90: a run in which some response was not `OK` is a run of a faulty program. -/
def State.allOk (s : State) : Bool := s.responses.all (fun r => r.status == .ok)

/-- A response with a status other than `OK` carries data 0 (spec/30_encoding.md R42). -/
def Response.wf (r : Response) : Bool := r.status == .ok || r.data == 0

/-- The invariant of the response port: every response obeys R42, and a response that is present is the last one
given (R29, R42). -/
def State.inv (s : State) : Bool :=
  s.responses.all Response.wf && (s.rsp.isNone || s.rsp == s.responses.getLast?)

end Sys2Proof.Machine
end

