-- ==== Sys2Proof/Certificates/Slice0/Obligations.lean ====
section
/-! DEFINITION. The statements for the provers, from the numbered rules of spec/. The helpers before them write a rule's
right-hand side in bit vectors of fixed width or in exact numbers, not through the model's operations. -/

namespace Sys2Proof.Claims

open Sys2Proof.Machine

/-- `s` after a command answered with `r` that leaves `x` in `state`: the response stands on the port and joins the
run's responses, and NOTHING ELSE changes (the frame: what the host does next and the free values' counter stay). -/
def answered (s : State) (x : Word48) (r : Response) : State :=
  { state := x, rsp := some r, responses := s.responses ++ [r], host := s.host, fresh := s.fresh }

/-- R46 in 48-bit wrapping arithmetic. -/
def step48 (x : Word48) : Word48 := 25214903917#48 * x + 11#48

/-- R47: `v[47:0] XOR 0x0005DEECE66D`. -/
def seed48 (v : Word64) : Word48 := v.setWidth 48 ^^^ 0x5DEECE66D#48

/-- The top 32 bits of a state, what `next(32)` returns after the step to that state (R50). -/
def top32 (x : Word48) : Word32 := x.extractLsb' 16 32

/-- The top 31 bits of a state as a number, what `next(31)` returns after the step to that state (R50). -/
def top31 (x : Word48) : Nat := x.toNat / 2 ^ 17

/-- R58 in bit terms: the first draw in the high word, plus the second with its sign, for the two steps after `x`. -/
def long64 (x : Word48) : Word64 :=
  (top32 (step48 x)).setWidth 64 <<< 32 + (top32 (step48 (step48 x))).signExtend 64

/-- The bound is a power of two in the domain (R53). -/
abbrev IsPow2 (b : Word32) : Prop := ∃ k ≤ 30, b.toNat = 2 ^ k

/-- R52's acceptance test in 32-bit wrapping arithmetic: `bits − val + (bound − 1)` is not negative. -/
abbrev Accepted32 (bits : Nat) (b : Word32) : Prop :=
  (BitVec.ofNat 32 bits - BitVec.ofNat 32 (bits % b.toNat) + (b - 1)).msb = false

/-- R55: the draw `bits` is accepted under `bound`: it lies below the largest multiple of the bound in `[0, 2^31]`. -/
abbrev Accepted (bits bound : Nat) : Prop := bits < 2 ^ 31 / bound * bound

/-- R40, R68: the word selects no command; `OPC`, `RSV` and `IMM6` by division (R36). -/
abbrev WordIllegal (w : Nat) : Prop :=
  w / 256 = 0 ∨ 8 ≤ w / 256 ∨ w / 64 % 4 ≠ 0 ∨ (w / 256 ≠ 2 ∧ w % 64 ≠ 0)

/-- R68: the word selects `NEXT` or `NEXTINT` and the operand is outside the domain. -/
abbrev OperandIllegal (w : Nat) (b : Word32) : Prop :=
  (w / 256 = 2 ∧ w / 64 % 4 = 0 ∧ (w % 64 = 0 ∨ 33 ≤ w % 64)) ∨ (w = 0x0300 ∧ b.msb = true)

end Sys2Proof.Claims

open Sys2Proof Sys2Proof.Machine Sys2Proof.Claims

/-! ## The generator's functions -/

/-- R46: the step, in exact integers modulo `2^48` and in 48-bit wrapping arithmetic. -/
def Obligations.LcgStepIsTheCongruence : Prop :=
  ∀ s : Word48, (lcgStep s).toNat = (25214903917 * s.toNat + 11) % 2 ^ 48 ∧ lcgStep s = step48 s

/-- The spec's own inference in R46: 64-bit wrapping arithmetic cut to 48 bits gives the same step. -/
def Obligations.LcgStepInSixtyFourBits : Prop :=
  ∀ s : Word48, lcgStep s = (25214903917#64 * s.setWidth 64 + 11#64).setWidth 48

/-- R47: the scramble in both of the rule's forms. -/
def Obligations.ScrambleRule : Prop :=
  ∀ v : Word64, scramble v = v.setWidth 48 ^^^ 0x0005DEECE66D#48 ∧
    scramble v = ((v ^^^ 0x5DEECE66D#64) &&& 0xFFFFFFFFFFFF#64).setWidth 48

/-- The spec's own inferences in R47: bits 63:48 are dropped, bits 47:35 untouched, and the scramble undoes itself on 48
bits. -/
def Obligations.ScrambleLaws : Prop :=
  (∀ v w : Word64, v.setWidth 48 = w.setWidth 48 → scramble v = scramble w) ∧
  (∀ v : Word64, (scramble v).extractLsb' 35 13 = v.extractLsb' 35 13) ∧
  (∀ u : Word48, scramble ((scramble (u.setWidth 64)).setWidth 64) = u)

/-- R50, the spec's own inference from R49: the values of `next`, and that they all leave the same state; the prefix law; `NEXT 2` is `NEXTINT 4`. -/
def Obligations.NextValueLaws : Prop :=
  (∀ (bits : Nat) (s : Word48), 1 ≤ bits → bits ≤ 31 →
    (next bits s).1 = ((lcgStep s).extractLsb' (48 - bits) bits).toNat ∧
    0 ≤ (next bits s).1 ∧ (next bits s).1 < 2 ^ bits) ∧
  (∀ s : Word48, (next 32 s).1 = ((lcgStep s).extractLsb' 16 32).toInt) ∧
  (∀ (b1 b2 : Nat) (s : Word48), 1 ≤ b1 → b1 ≤ b2 → b2 ≤ 31 →
    (next b1 s).2 = (next b2 s).2 ∧ (next b1 s).1 = (next b2 s).1 >>> (b2 - b1)) ∧
  (∀ s : Word48, (next 32 s).2 = (next 31 s).2) ∧
  (∀ s : State, exec (.next 2) s = exec (.nextint 4) s)

/-- R51: the inverse step undoes the step on both sides. -/
def Obligations.LcgStepInverse : Prop :=
  25214903917 * 246154705703781 % 2 ^ 48 = 1 ∧
  (∀ t : Word48, ((lcgUnstep t).toNat : Int) = 246154705703781 * ((t.toNat : Int) - 11) % 2 ^ 48) ∧
  (∀ s : Word48, lcgUnstep (lcgStep s) = s) ∧ (∀ t : Word48, lcgStep (lcgUnstep t) = t)

/-- R57, resting on the full period the spec takes from general knowledge: the states after `s` run through every 48-bit value within `2^48` steps, from every `s`. -/
def Obligations.LcgHasFullPeriod : Prop :=
  ∀ s t : Word48, ∃ k, 1 ≤ k ∧ k ≤ 2 ^ 48 ∧ lcgStep^[k] s = t

/-- R53: the bitwise test is the mathematical one, zero included. -/
def Obligations.PowerOfTwoTest : Prop :=
  ∀ bound : Nat, bound < 2 ^ 31 →
    (isPow2OrZero bound = true ↔ bound = 0 ∨ ∃ k ≤ 30, bound = 2 ^ k) ∧
    (isPow2OrZero bound = true ↔
      BitVec.ofNat 32 bound &&& -BitVec.ofNat 32 bound = BitVec.ofNat 32 bound) ∧
    (isPow2OrZero bound = true ↔ BitVec.ofNat 32 bound &&& (BitVec.ofNat 32 bound - 1) = 0)

/-- R55, the spec's own inference from R52: the wrapped test in exact integers, and how many draws it rejects. -/
def Obligations.AcceptanceTestInExactIntegers : Prop :=
  ∀ bits bound : Nat, 0 < bound → bound < 2 ^ 31 → bits < 2 ^ 31 →
    (accepts bits (bits % bound : Nat) bound = true ↔ (bits / bound + 1) * bound ≤ 2 ^ 31) ∧
    (accepts bits (bits % bound : Nat) bound = true ↔ Accepted bits bound) ∧
    bits - bits % bound + (bound - 1) < 2 ^ 32 ∧
    2 ^ 31 - 2 ^ 31 / bound * bound = 2 ^ 31 % bound ∧
    2 ^ 31 % bound < bound ∧ 2 * (2 ^ 31 % bound) < 2 ^ 31 ∧ bits % bound < bound

/-- R60, with the layout of binary32 it takes from general knowledge (`f32value`, PRESUMED in log entry 11) and the spec's
own inference that the quotient is exact: for `k < 2^24` the pattern stands for exactly `k / 2^24`; sign 0, exponent between
103 and 126 for `k ≥ 1`; and the patterns are ordered as the numbers. -/
def Obligations.Binary32PatternIsExact : Prop :=
  f32bits 0 = 0 ∧
  (∀ k : Nat, k < 2 ^ 24 → f32value (f32bits k) = (k : ℚ) / 2 ^ 24 ∧ (f32bits k).msb = false) ∧
  (∀ k : Nat, 1 ≤ k → k < 2 ^ 24 →
    103 ≤ ((f32bits k).extractLsb' 23 8).toNat ∧ ((f32bits k).extractLsb' 23 8).toNat ≤ 126) ∧
  (∀ j k : Nat, j < k → k < 2 ^ 24 → (f32bits j).toNat < (f32bits k).toNat)

/-! ## What each command does -/

/-- R48. -/
def Obligations.SetseedLoadsTheScrambledSeed : Prop :=
  (∀ (a d : Word64) (b c : Word32), decode ⟨0x0100, a, b, c, d⟩ = .ok (.setseed a)) ∧
  (∀ (a : Word64) (s : State), exec (.setseed a) s = .next (answered s (seed48 a) ⟨.ok, 0⟩)) ∧
  (∀ (a a' : Word64) (s : State), a.setWidth 48 = a'.setWidth 48 → exec (.setseed a) s = exec (.setseed a') s)

/-- R87, the spec's own inference from R47: seeding B with A's `state_o` XOR the scramble constant leaves A's state in B. -/
def Obligations.CopyThroughStatePort : Prop :=
  ∀ s t : State,
    exec (.setseed (s.stateO.setWidth 64 ^^^ 0x5DEECE66D#64)) t = .next (answered t s.state ⟨.ok, 0⟩)

/-- R49, with R37's domain: one step, the top `bits` bits of the NEW state as a signed 32-bit integer, sign-extended;
outside the domain nothing but the error response. -/
def Obligations.NextDrawsTheTopBits : Prop :=
  (∀ (n : BitVec 6) (a d : Word64) (b c : Word32),
    decode ⟨0x0200 ||| n.setWidth 16, a, b, c, d⟩ = .ok (.next n)) ∧
  (∀ (n : BitVec 6) (s : State), 1 ≤ n.toNat → n.toNat ≤ 32 →
    exec (.next n) s =
      .next (answered s (step48 s.state)
        ⟨.ok, ((step48 s.state >>> (48 - n.toNat)).setWidth 32).signExtend 64⟩)) ∧
  (∀ (n : BitVec 6) (s : State), n.toNat = 0 ∨ 33 ≤ n.toNat →
    exec (.next n) s = .next (answered s s.state ⟨.illegalOperand, 0⟩))

/-- R52 in its three paths: a negative bound is an illegal operand and changes nothing; zero or a power of two takes one
step and returns `(bound × r31) >> 31`; any other bound takes steps up to the first draw the wrapped test accepts and
returns that draw modulo the bound. -/
def Obligations.NextintFollowsItsThreePaths : Prop :=
  (∀ (b c : Word32) (a d : Word64), decode ⟨0x0300, a, b, c, d⟩ = .ok (.nextint b)) ∧
  (∀ (b : Word32) (s : State), b.msb = true →
    exec (.nextint b) s = .next (answered s s.state ⟨.illegalOperand, 0⟩)) ∧
  (∀ (b : Word32) (s : State), b = 0 ∨ IsPow2 b →
    exec (.nextint b) s =
      .next (answered s (step48 s.state)
        ⟨.ok, BitVec.ofNat 64 (b.toNat * top31 (step48 s.state) / 2 ^ 31)⟩)) ∧
  (∀ (b : Word32) (s : State) (n : Nat), b.msb = false → b ≠ 0 → ¬ IsPow2 b → n < 2 ^ 48 →
    (∀ j < n, ¬ Accepted32 (top31 (step48^[j + 1] s.state)) b) →
    Accepted32 (top31 (step48^[n + 1] s.state)) b →
    exec (.nextint b) s =
      .next (answered s (step48^[n + 1] s.state)
        ⟨.ok, BitVec.ofNat 64 (top31 (step48^[n + 1] s.state) % b.toNat)⟩))

/-- R54, the spec's own inference: for a power of two `2^k` the result is the top `k` bits of the new state, and `NEXTINT 2^k` is `NEXT k`. -/
def Obligations.NextintPowerOfTwoIsNext : Prop :=
  (∀ (k : Nat) (s : State), 1 ≤ k → k ≤ 30 →
    exec (.nextint (BitVec.ofNat 32 (2 ^ k))) s = exec (.next (BitVec.ofNat 6 k)) s ∧
    exec (.nextint (BitVec.ofNat 32 (2 ^ k))) s =
      .next (answered s (step48 s.state) ⟨.ok, ((step48 s.state).extractLsb' (48 - k) k).setWidth 64⟩)) ∧
  (∀ s : State, exec (.nextint 1) s = .next (answered s (step48 s.state) ⟨.ok, 0⟩))

/-- R56, as decided (D14, U3): the result is 0, the status `OK`, and exactly one step is taken. -/
def Obligations.NextintZeroTakesOneStep : Prop :=
  ∀ s : State, exec (.nextint 0) s = .next (answered s (step48 s.state) ⟨.ok, 0⟩)

/-- R52, R57: every legal bound is answered, from every state, with a value in `[0, bound)` (0 for the bound 0). -/
def Obligations.NextintAlwaysAnswersInRange : Prop :=
  ∀ (b : Word32) (s : State), b.msb = false →
    ∃ (x : Word48) (r : Word64), exec (.nextint b) s = .next (answered s x ⟨.ok, r⟩) ∧
      0 ≤ r.toInt ∧ r.toInt ≤ b.toInt ∧ (b ≠ 0 → r.toInt < b.toInt)

/-- R58: two steps; the first draw high, the second added with its sign, wrapping at 64 bits. -/
def Obligations.NextlongJoinsTwoDraws : Prop :=
  (∀ (a d : Word64) (b c : Word32), decode ⟨0x0400, a, b, c, d⟩ = .ok .nextlong) ∧
  (∀ s : State,
    exec .nextlong s = .next (answered s (step48 (step48 s.state)) ⟨.ok, long64 s.state⟩)) ∧
  (∀ s : State, (long64 s.state).extractLsb' 0 32 = top32 (step48 (step48 s.state)) ∧
    (long64 s.state).extractLsb' 32 32 =
      top32 (step48 s.state) - (if (top32 (step48 (step48 s.state))).msb then 1 else 0))

/-- R59: one step; the response is R60's pattern of `k`, zero-extended, `k` the top 24 bits of the new state. That the
pattern stands for exactly `k / 2^24` and lies in `[0, 1)` is said through `f32value`, PRESUMED in log entry 11: it reads the
pattern by the layout of binary32 that R60 takes from general knowledge, and the exactness is R60's own inference. -/
def Obligations.NextfloatReturnsTheExactQuotient : Prop :=
  (∀ (a d : Word64) (b c : Word32), decode ⟨0x0500, a, b, c, d⟩ = .ok .nextfloat) ∧
  (∀ s : State, ∃ f : Word32,
    exec .nextfloat s = .next (answered s (step48 s.state) ⟨.ok, f.setWidth 64⟩) ∧
    f = f32bits ((step48 s.state).toNat / 2 ^ 24) ∧
    f32value f = (((step48 s.state).toNat / 2 ^ 24 : Nat) : ℚ) / 2 ^ 24 ∧
    0 ≤ f32value f ∧ f32value f < 1 ∧ f.msb = false)

/-- R62: the state is the scramble of the sum, formed in exact integers and wrapped once to 64 bits. -/
def Obligations.SetregionSeedsFromTheMix : Prop :=
  (∀ (a d : Word64) (b c : Word32), decode ⟨0x0600, a, b, c, d⟩ = .ok (.setregion a b c d)) ∧
  (∀ (a d : Word64) (b c : Word32) (s : State),
    exec (.setregion a b c d) s =
      .next (answered s
        (seed48 (341873128712#64 * b.signExtend 64 + 132897987541#64 * c.signExtend 64 + a + d)) ⟨.ok, 0⟩))

/-- R63, the spec's own inference: the state in exact integers modulo `2^48`; only bits 47:0 of seed and salt matter; the salt may be folded into
the seed; the command is `SETSEED` of the mix. -/
def Obligations.SetregionLaws : Prop :=
  ∀ (a d : Word64) (b c : Word32) (s : State),
    (∃ t, exec (.setregion a b c d) s = .next t ∧
      t.state = BitVec.ofInt 48
        (341873128712 * b.toInt + 132897987541 * c.toInt + a.toInt + d.toInt) ^^^ 0x5DEECE66D#48) ∧
    (∀ a' d' : Word64, a.setWidth 48 = a'.setWidth 48 → d.setWidth 48 = d'.setWidth 48 →
      exec (.setregion a b c d) s = exec (.setregion a' b c d') s) ∧
    exec (.setregion a b c d) s = exec (.setregion (a + d) b c 0) s ∧
    exec (.setregion a b c d) s =
      exec (.setseed (341873128712#64 * b.signExtend 64 + 132897987541#64 * c.signExtend 64 + a + d)) s

/-- R64: seed with `a`, two longs, reseed with the mix; no old state enters. -/
def Obligations.SetcarverReseedsFromTwoLongs : Prop :=
  (∀ (a d : Word64) (b c : Word32), decode ⟨0x0700, a, b, c, d⟩ = .ok (.setcarver a b c)) ∧
  (∀ (a : Word64) (b c : Word32) (s : State),
    exec (.setcarver a b c) s =
      .next (answered s
        (seed48 ((b.signExtend 64 * long64 (seed48 a)) ^^^
          (c.signExtend 64 * long64 (step48 (step48 (seed48 a)))) ^^^ a)) ⟨.ok, 0⟩)) ∧
  (∀ (a : Word64) (s : State), exec (.setcarver a 0 0) s = exec (.setseed a) s) ∧
  (∀ (a a' : Word64) (b c : Word32) (s : State), a.setWidth 48 = a'.setWidth 48 →
    exec (.setcarver a b c) s = exec (.setcarver a' b c) s)

/-- R65 (1), the spec's own inference: the expansion into four commands with the host's arithmetic in between leaves the same state. -/
def Obligations.SetcarverExpansion : Prop :=
  ∀ (w : Word64) (cx cz : Word32) (s : State), ∃ (t1 t2 t3 t4 t : State) (la lb : Word64),
    exec (.setseed w) s = .next t1 ∧
    exec .nextlong t1 = .next t2 ∧ t2.rsp = some ⟨.ok, la⟩ ∧
    exec .nextlong t2 = .next t3 ∧ t3.rsp = some ⟨.ok, lb⟩ ∧
    exec (.setseed ((cx.signExtend 64 * la) ^^^ (cz.signExtend 64 * lb) ^^^ w)) t3 = .next t4 ∧
    exec (.setcarver w cx cz) s = .next t ∧ t.state = t4.state

/-- R12, R26, R83: a seeding command never reads the old `state`: from two states that differ in it alone it leads to
the same state, and repeating it changes `state` no more. -/
def Obligations.SeedingForgetsTheOldState : Prop :=
  ∀ (i : Instr) (s : State) (x : Word48), isSeeding i = true →
    ∃ t, exec i s = .next t ∧ exec i { s with state := x } = .next t ∧
      ∃ u, exec i t = .next u ∧ u.state = t.state

/-- THE FRAME, for all seven commands: a command that is performed answers once, and leaves what the host does next and
the free values' counter as they were; with a status other than `OK` it leaves `state` too and carries data 0. -/
def Obligations.ExecFrame : Prop :=
  ∀ (i : Instr) (s t : State), exec i s = .next t →
    ∃ (x : Word48) (r : Response), t = answered s x r ∧ (r.status ≠ .ok → x = s.state ∧ r.data = 0)

/-! ## Decoding -/

/-- R37, R39, R44: decoding what is encoded gives it back, every operand at every value, the ones outside the domain
included; and the ports a command does not use are encoded as zero. -/
def Obligations.DecodeEncode : Prop :=
  ∀ i : Instr, decode (encode i) = .ok i ∧
    ((encode i).d ≠ 0 → i.mnemonic = .SETREGION) ∧
    ((encode i).c ≠ 0 → i.mnemonic = .SETREGION ∨ i.mnemonic = .SETCARVER) ∧
    ((encode i).b ≠ 0 → i.mnemonic = .SETREGION ∨ i.mnemonic = .SETCARVER ∨ i.mnemonic = .NEXTINT) ∧
    ((encode i).a ≠ 0 → i.mnemonic = .SETREGION ∨ i.mnemonic = .SETCARVER ∨ i.mnemonic = .SETSEED)

/-- R36, R38: what decodes to a command has that command's word, and the operands are the ports'. -/
def Obligations.EncodeDecode : Prop :=
  ∀ (p : Command) (i : Instr), decode p = .ok i →
    (encode i).word = p.word ∧
    (∀ a, i = .setseed a → a = p.a) ∧
    (∀ n, i = .next n → n.toNat = p.word.toNat % 64) ∧
    (∀ b, i = .nextint b → b = p.b) ∧
    (∀ a b c d, i = .setregion a b c d → a = p.a ∧ b = p.b ∧ c = p.c ∧ d = p.d) ∧
    (∀ a b c, i = .setcarver a b c → a = p.a ∧ b = p.b ∧ c = p.c)

/-- R39: the rows do not overlap. -/
def Obligations.OpcodeRowsDoNotOverlap : Prop :=
  ∀ (w : Word16) (r q : Row), r ∈ opcodeRows → q ∈ opcodeRows →
    r.selects w = true → q.selects w = true → r = q

/-- R40: exactly the listed words are rejected, and each by the clause it falls under. -/
def Obligations.DecodeRejectsExactlyIllegalWords : Prop :=
  ∀ p : Command,
    ((∃ e, decode p = .error e) ↔ WordIllegal p.word.toNat) ∧
    (decode p = .error .unassignedOpcode ↔ p.word.toNat / 256 = 0 ∨ 8 ≤ p.word.toNat / 256) ∧
    (decode p = .error .reservedBitsSet ↔
      1 ≤ p.word.toNat / 256 ∧ p.word.toNat / 256 ≤ 7 ∧ p.word.toNat / 64 % 4 ≠ 0) ∧
    (decode p = .error .immediateNotZero ↔
      1 ≤ p.word.toNat / 256 ∧ p.word.toNat / 256 ≤ 7 ∧ p.word.toNat / 64 % 4 = 0 ∧
        p.word.toNat / 256 ≠ 2 ∧ p.word.toNat % 64 ≠ 0)

/-- Words written out from R36 and R39 decode to the commands they stand for. -/
def Obligations.SampleWordsDecode : Prop :=
  decode ⟨0b0000000100000000, 42, 0, 0, 0⟩ = .ok (.setseed 42) ∧
  decode ⟨0b0000001000011111, 0, 0, 0, 0⟩ = .ok (.next 31) ∧
  decode ⟨0b0000001100000000, 0, 10, 0, 0⟩ = .ok (.nextint 10) ∧
  decode ⟨0b0000010000000000, 0, 0, 0, 0⟩ = .ok .nextlong ∧
  decode ⟨0b0000010100000000, 0, 0, 0, 0⟩ = .ok .nextfloat ∧
  decode ⟨0b0000011000000000, 1, 2, 3, 4⟩ = .ok (.setregion 1 2 3 4) ∧
  decode ⟨0b0000011100000000, 1, 2, 3, 4⟩ = .ok (.setcarver 1 2 3) ∧
  decode ⟨0b0000001001100000, 0, 0, 0, 0⟩ = .error .reservedBitsSet ∧
  decode ⟨0b0000000100000001, 0, 0, 0, 0⟩ = .error .immediateNotZero ∧
  decode ⟨0b0000100000000000, 0, 0, 0, 0⟩ = .error .unassignedOpcode

/-- R38: a port a command does not use has no effect on the step: `cmd_a` matters to `SETSEED`, `SETREGION` and
`SETCARVER` only, `cmd_b` to `NEXTINT`, `SETREGION` and `SETCARVER`, `cmd_c` to the last two, `cmd_d` to `SETREGION`. -/
def Obligations.UnusedPortsAreIgnored : Prop :=
  ∀ (s : State) (p q : Command) (rest : List HostEvent),
    p.word = q.word →
    (p.word = 0x0100 ∨ p.word = 0x0600 ∨ p.word = 0x0700 → p.a = q.a) →
    (p.word = 0x0300 ∨ p.word = 0x0600 ∨ p.word = 0x0700 → p.b = q.b) →
    (p.word = 0x0600 ∨ p.word = 0x0700 → p.c = q.c) →
    (p.word = 0x0600 → p.d = q.d) →
    step { s with host := .command p :: rest } = step { s with host := .command q :: rest }

/-! ## Status and the error response -/

/-- R40, R70: an illegal command word is answered with `ILLEGAL_COMMAND`, data 0, and changes nothing else. -/
def Obligations.IllegalWordIsAnswered : Prop :=
  ∀ (s : State) (p : Command) (rest : List HostEvent),
    s.host = .command p :: rest → WordIllegal p.word.toNat →
    step s = .next { s with
      rsp := some ⟨.illegalCommand, 0⟩, responses := s.responses ++ [⟨.illegalCommand, 0⟩], host := rest }

/-- R68, R69: every command is answered, and the status is exactly as the causes say. -/
def Obligations.StatusCausesAreExhaustive : Prop :=
  ∀ (s : State) (p : Command) (rest : List HostEvent), s.host = .command p :: rest →
    ∃ (t : State) (r : Response), step s = .next t ∧ t.rsp = some r ∧
      (r.status = .illegalCommand ↔ WordIllegal p.word.toNat) ∧
      (r.status = .illegalOperand ↔ OperandIllegal p.word.toNat p.b)

/-- R70: a command answered with a status other than `OK` leaves `state` as it was, answers `(status, 0)`, and the block
goes on to the next command. -/
def Obligations.NonOkCommandChangesNothing : Prop :=
  ∀ (s t : State) (p : Command) (rest : List HostEvent) (r : Response),
    s.host = .command p :: rest → step s = .next t → t.rsp = some r → r.status ≠ .ok →
    t = { s with
      rsp := some ⟨r.status, 0⟩, responses := s.responses ++ [⟨r.status, 0⟩], host := rest } ∧
    t.cmdReady = true

/-- R66: inside the documented domains every command, in every state, completes with status `OK`. -/
def Obligations.InDomainCommandsAreOk : Prop :=
  ∀ (i : Instr) (s : State), i.wf = true →
    ∃ (x : Word48) (d : Word64), exec i s = .next (answered s x ⟨.ok, d⟩)

/-- R42, R67: on the ports, a response's status is 0, 1 or 2, never `0b11`, and with a status other than `OK` the data
are 0. -/
def Obligations.ResponsePortCodes : Prop :=
  ∀ s : State, s.inv = true → s.rspValid = true →
    (s.rspStatus = 0b00 ∨ s.rspStatus = 0b01 ∨ s.rspStatus = 0b10) ∧ s.rspStatus ≠ 0b11 ∧
    (s.rspStatus ≠ 0b00 → s.rspData = 0) ∧
    (∀ r, s.rsp = some r → s.rspStatus = (match r.status with
      | .ok => 0b00 | .illegalCommand => 0b01 | .illegalOperand => 0b10) ∧ s.rspData = r.data)

/-! ## The step, reset and whole runs -/

/-- A step whose next command decodes runs exactly that command, the host's list moved past it (R29, R35). -/
def Obligations.StepRunsTheDecodedCommand : Prop :=
  ∀ (s : State) (p : Command) (rest : List HostEvent) (i : Instr),
    s.host = .command p :: rest → decode p = .ok i → step s = exec i { s with host := rest }

/-- R81, R82: reset gives no response, abandons a command in progress, and leaves in `state` an unknown value, the free
value of the next number. That a reset starts the list of responses anew is the model's choice (log entry 4). -/
def Obligations.ResetEventForgets : Prop :=
  ∀ (s : State) (p : Command) (rest : List HostEvent), s.host = .reset :: rest ∨ s.host = .resetDuring p :: rest →
    step s = .next { state := Config.resetState (s.fresh + 1), rsp := none, responses := [], host := rest,
                     fresh := s.fresh + 1 }

/-- R80, R85, R89: a cycle without a command leaves `state` and shows no response; the responses given stay given. -/
def Obligations.IdleCycleKeepsTheState : Prop :=
  ∀ (s : State) (rest : List HostEvent), s.host = .idle :: rest ∨ (s.host = [] ∧ rest = []) →
    ∃ t, step s = .next t ∧ t.state = s.state ∧ t.rspValid = false ∧ t.responses = s.responses ∧ t.host = rest ∧
      t.stateO = s.stateO ∧ t.cmdReady = true

/-- R82: right after reset no response is present, the block is ready and nothing was answered; `state` is the free value
of log entry 1, of which nothing more is said. -/
def Obligations.AfterReset : Prop :=
  State.reset.rspValid = false ∧ State.reset.cmdReady = true ∧ State.reset.responses = [] ∧ State.reset.host = [] ∧
  State.reset.stateO = State.reset.state ∧ State.reset.state = Config.resetState 0

/-- The invariant of the response port holds after reset. -/
def Obligations.PortInvariantAfterReset : Prop := State.reset.inv = true

/-- R29, R42: every step keeps the invariant of the response port, from every state that has it. -/
def Obligations.StepKeepsPortInvariant : Prop :=
  ∀ s t : State, s.inv = true → step s = .next t → t.inv = true

/-- R66, R88, R90: the block never stops: every step, from every state, gives a next state. -/
def Obligations.StepNeverStops : Prop := ∀ s : State, ∃ t, step s = .next t

/-- R29, R35: a run of a command list is a fold of ONE pure function of `state` and command: each command reads the
`state` the one before it wrote, each is answered exactly once, in order, and nothing else decides the outcome. -/
def Obligations.RunIsAFoldOverTheCommands : Prop :=
  ∃ f : Word48 → Command → Word48 × Response, ∀ (cmds : List Command) (s : State),
    s.host = cmds.map HostEvent.command →
    ∃ t, runSteps cmds.length s = .next t ∧ t.host = [] ∧ t.fresh = s.fresh ∧
      (t.state, t.responses) =
        cmds.foldl (fun acc p => ((f acc.1 p).1, acc.2 ++ [(f acc.1 p).2])) (s.state, s.responses)

/-- R83: where the host seeds before it draws, no response of the run depends on what `state` held at the start. -/
def Obligations.SeededRunsIgnoreTheResetValue : Prop :=
  ∀ (k : Nat) (s : State) (x : Word48), seedsBeforeDrawing false s.host = true →
    ∃ t u : State, runSteps k s = .next t ∧
      runSteps k { s with state := x } = .next u ∧
      t.responses = u.responses ∧ t.rsp = u.rsp ∧ t.host = u.host

/-- R66, R71, R90: a run whose commands are all legal and inside their domains has only `OK` responses. -/
def Obligations.GoodRunsAreAllOk : Prop :=
  ∀ (k : Nat) (s : State), s.allOk = true → commandsInDomain s.host = true →
    ∃ t, runSteps k s = .next t ∧ t.allOk = true ∧ commandsInDomain t.host = true

/-- R34, R78, over `systemStep`, which is the model's choice (log entry 9, DESIGN CHOICE: a system is a list of States, one
of which moves, at the reader's choice): a step of one instance is that instance's own step, leaves every other instance as
it was, and steps of different instances may be taken in either order. That each step completes is no part of R34: it rests
on R66, R88 and the loop bound of log entry 5. -/
def Obligations.InstancesAreIndependent : Prop :=
  ∀ (sys : List State) (j k : Fin sys.length), j ≠ k →
    ∃ (tj tk : State) (sj sk : List State),
      step sys[j] = .next tj ∧ step sys[k] = .next tk ∧
      systemStep sys j = .next sj ∧ systemStep sys k = .next sk ∧
      (∀ n, n ≠ j.1 → sj[n]? = sys[n]?) ∧ sj[j.1]? = some tj ∧
      (∀ (k' : Fin sj.length) (j' : Fin sk.length), k'.1 = k.1 → j'.1 = j.1 →
        systemStep sj k' = systemStep sk j')
end

