-- ==== Sys2Proof/Laws/Decode.lean ====
section
/-! SUPPORT. The row each command word selects, so that decoding need not be computed again (R39). -/

namespace Sys2Proof

@[simp] theorem selectRow_setseed : selectRow 0x0100#16 = some ⟨.SETSEED, 0x0100#16, 0xFFFF#16⟩ := by decide
@[simp] theorem selectRow_nextint : selectRow 0x0300#16 = some ⟨.NEXTINT, 0x0300#16, 0xFFFF#16⟩ := by decide
@[simp] theorem selectRow_nextlong : selectRow 0x0400#16 = some ⟨.NEXTLONG, 0x0400#16, 0xFFFF#16⟩ := by decide
@[simp] theorem selectRow_nextfloat : selectRow 0x0500#16 = some ⟨.NEXTFLOAT, 0x0500#16, 0xFFFF#16⟩ := by decide
@[simp] theorem selectRow_setregion : selectRow 0x0600#16 = some ⟨.SETREGION, 0x0600#16, 0xFFFF#16⟩ := by decide
@[simp] theorem selectRow_setcarver : selectRow 0x0700#16 = some ⟨.SETCARVER, 0x0700#16, 0xFFFF#16⟩ := by decide

/-- Every word of `NEXT`'s row selects it, and its immediate is the field it was made from (R37, R39). -/
theorem selectRow_next : ∀ n : BitVec 6,
    selectRow (0x0200#16 ||| n.setWidth 16) = some ⟨.NEXT, 0x0200#16, 0xFFC0#16⟩ ∧ imm6 (0x0200#16 ||| n.setWidth 16) = n := by
  decide

/-- A word selects a row that is in the map and that it satisfies (R39). -/
theorem selectRow_some {w : Word16} {r : Row} (h : selectRow w = some r) :
    r ∈ opcodeRows ∧ w &&& r.mask = r.pattern := by
  refine ⟨List.mem_of_find?_eq_some h, ?_⟩
  have := List.find?_some h
  simpa [Row.selects] using this

end Sys2Proof
end

