-- ==== Sys2Proof/Laws/State.lean ====
section
/-! SUPPORT. The fields of a state after each update, one lemma per field per update. -/

namespace Sys2Proof.Machine

@[simp] theorem respond_state (s : State) (st : Status) (d : Word64) : (s.respond st d).state = s.state := rfl
@[simp] theorem respond_rsp (s : State) (st : Status) (d : Word64) : (s.respond st d).rsp = some ⟨st, d⟩ := rfl
@[simp] theorem respond_responses (s : State) (st : Status) (d : Word64) :
    (s.respond st d).responses = s.responses ++ [⟨st, d⟩] := rfl
@[simp] theorem respond_host (s : State) (st : Status) (d : Word64) : (s.respond st d).host = s.host := rfl
@[simp] theorem respond_fresh (s : State) (st : Status) (d : Word64) : (s.respond st d).fresh = s.fresh := rfl

@[simp] theorem complete_state (s : State) (x : Word48) (d : Word64) : (s.complete x d).state = x := rfl
@[simp] theorem complete_rsp (s : State) (x : Word48) (d : Word64) : (s.complete x d).rsp = some ⟨.ok, d⟩ := rfl
@[simp] theorem complete_responses (s : State) (x : Word48) (d : Word64) :
    (s.complete x d).responses = s.responses ++ [⟨.ok, d⟩] := rfl
@[simp] theorem complete_host (s : State) (x : Word48) (d : Word64) : (s.complete x d).host = s.host := rfl
@[simp] theorem complete_fresh (s : State) (x : Word48) (d : Word64) : (s.complete x d).fresh = s.fresh := rfl

@[simp] theorem takeError_state (s : State) (st : Status) : (s.takeError st).state = s.state := rfl
@[simp] theorem takeError_rsp (s : State) (st : Status) : (s.takeError st).rsp = some ⟨st, 0⟩ := rfl
@[simp] theorem takeError_responses (s : State) (st : Status) :
    (s.takeError st).responses = s.responses ++ [⟨st, 0⟩] := rfl
@[simp] theorem takeError_host (s : State) (st : Status) : (s.takeError st).host = s.host := rfl
@[simp] theorem takeError_fresh (s : State) (st : Status) : (s.takeError st).fresh = s.fresh := rfl

@[simp] theorem withHost_state (s : State) (h : List HostEvent) : (s.withHost h).state = s.state := rfl
@[simp] theorem withHost_rsp (s : State) (h : List HostEvent) : (s.withHost h).rsp = s.rsp := rfl
@[simp] theorem withHost_responses (s : State) (h : List HostEvent) : (s.withHost h).responses = s.responses := rfl
@[simp] theorem withHost_host (s : State) (h : List HostEvent) : (s.withHost h).host = h := rfl
@[simp] theorem withHost_fresh (s : State) (h : List HostEvent) : (s.withHost h).fresh = s.fresh := rfl

@[simp] theorem idleCycle_state (s : State) : s.idleCycle.state = s.state := rfl
@[simp] theorem idleCycle_rsp (s : State) : s.idleCycle.rsp = none := rfl
@[simp] theorem idleCycle_responses (s : State) : s.idleCycle.responses = s.responses := rfl
@[simp] theorem idleCycle_host (s : State) : s.idleCycle.host = s.host := rfl
@[simp] theorem idleCycle_fresh (s : State) : s.idleCycle.fresh = s.fresh + 1 := rfl

@[simp] theorem assertReset_state (s : State) : s.assertReset.state = Config.resetState (s.fresh + 1) := rfl
@[simp] theorem assertReset_rsp (s : State) : s.assertReset.rsp = none := rfl
@[simp] theorem assertReset_responses (s : State) : s.assertReset.responses = [] := rfl
@[simp] theorem assertReset_host (s : State) : s.assertReset.host = s.host := rfl
@[simp] theorem assertReset_fresh (s : State) : s.assertReset.fresh = s.fresh + 1 := rfl

@[simp] theorem withFetchWord_state (s : State) (nbits w : Nat) : (s.withFetchWord nbits w).state = s.state := rfl
@[simp] theorem withFetchWord_rsp (s : State) (nbits w : Nat) : (s.withFetchWord nbits w).rsp = s.rsp := rfl
@[simp] theorem withFetchWord_responses (s : State) (nbits w : Nat) :
    (s.withFetchWord nbits w).responses = s.responses := rfl
@[simp] theorem withFetchWord_host (s : State) (nbits w : Nat) :
    (s.withFetchWord nbits w).host = .command (tableCommand nbits w) :: s.host := rfl
@[simp] theorem withFetchWord_fresh (s : State) (nbits w : Nat) : (s.withFetchWord nbits w).fresh = s.fresh := rfl

end Sys2Proof.Machine
end

