-- ==== Sys2Proof/Laws/Ops.lean ====
section
/-! SUPPORT. One lemma for each shared operation that says what it computes, so that proofs need not unfold it. -/

namespace Sys2Proof.Machine

/-- `AND MASK` is reduction modulo `2^48` (R10, R46). -/
theorem land_mask (n : Nat) : n &&& Config.mask = n % 2 ^ 48 :=
  Nat.and_two_pow_sub_one_eq_mod n 48

/-- R46 over 48-bit vectors. -/
theorem lcgStep_toNat (s : Word48) : (lcgStep s).toNat = (25214903917 * s.toNat + 11) % 2 ^ 48 := by
  simp only [lcgStep, land_mask, BitVec.toNat_ofNat, Nat.mod_mod, Config.mult, Config.add]

/-- R47 over vectors. -/
theorem scramble_eq (v : Word64) : scramble v = v.setWidth 48 ^^^ 0x5DEECE66D#48 := by
  apply BitVec.eq_of_toNat_eq
  simp only [scramble, land_mask, BitVec.toNat_ofNat, Nat.mod_mod, Config.xor, BitVec.toNat_xor,
    BitVec.toNat_setWidth, Nat.xor_mod_two_pow]

/-- Narrowing a sum or product of integers is the vectors' own arithmetic. -/
theorem wrap_add (n : Nat) (i j : Int) : wrap n (i + j) = wrap n i + wrap n j := BitVec.ofInt_add i j

theorem wrap_mul (n : Nat) (i j : Int) : wrap n (i * j) = wrap n i * wrap n j := BitVec.ofInt_mul i j

/-- A signed vector enters wider arithmetic with its sign. -/
theorem wrap_toInt_eq_signExtend {w : Nat} (n : Nat) (v : BitVec w) : wrap n v.toInt = v.signExtend n := rfl

theorem wrap_toInt {w : Nat} (v : BitVec w) : wrap w v.toInt = v := BitVec.ofInt_toInt

/-- The new state of a draw is one LCG step on, whatever the number of bits (R49). -/
@[simp] theorem next_snd (bits : Nat) (st : Word48) : (next bits st).2 = lcgStep st := rfl

/-- The value of a draw of at most 31 bits (R49, R50). -/
theorem next_fst_of_le_31 {bits : Nat} (h : bits ≤ 31) (st : Word48) :
    (next bits st).1 = (((lcgStep st).toNat >>> (48 - bits) : Nat) : Int) := by
  have hlt : (lcgStep st).toNat >>> (48 - bits) < 2 ^ 31 := by
    rw [Nat.shiftRight_eq_div_pow]
    refine Nat.div_lt_of_lt_mul (lt_of_lt_of_le (lcgStep st).isLt ?_)
    rw [← pow_add]
    exact Nat.pow_le_pow_right (by decide) (by omega)
  change s32 (((lcgStep st).toNat >>> (48 - bits) : Nat) : Int) = _
  generalize (lcgStep st).toNat >>> (48 - bits) = t at hlt
  simp only [s32, wrap, BitVec.toInt_ofInt]
  exact Int.bmod_eq_of_le (by omega) (by omega)

/-- The top 32 bits of a 48-bit value as an integer narrowed to 32 bits. -/
theorem wrap_top32 (x : Word48) : wrap 32 ((x.toNat >>> (48 - 32) : Nat) : Int) = x.extractLsb' 16 32 := by
  rw [wrap, BitVec.ofInt_natCast]
  apply BitVec.eq_of_toNat_eq
  rw [BitVec.extractLsb'_toNat, BitVec.toNat_ofNat]

/-- The value of a 32-bit draw (R49, R50). -/
theorem next_fst_32 (st : Word48) : (next 32 st).1 = ((lcgStep st).extractLsb' 16 32).toInt := by
  have h : (next 32 st).1 = (wrap 32 (((lcgStep st).toNat >>> (48 - 32) : Nat) : Int)).toInt := rfl
  rw [h, wrap_top32]

/-- What the port shows of a 32-bit result (R43). -/
theorem result32_ofNat {r : Nat} (h : r < 2 ^ 31) : result32 (r : Int) = BitVec.ofNat 64 r := by
  have hv : wrap 32 (r : Int) = BitVec.ofNat 32 r := by rw [wrap, BitVec.ofInt_natCast]
  have hr : r % 2 ^ 32 = r := Nat.mod_eq_of_lt (by omega)
  have hmsb : (BitVec.ofNat 32 r).msb = false := by
    rw [BitVec.msb_eq_false_iff_two_mul_lt, BitVec.toNat_ofNat, hr]; omega
  apply BitVec.eq_of_toNat_eq
  rw [result32, sext64, hv, BitVec.signExtend_eq_setWidth_of_msb_false hmsb, BitVec.toNat_setWidth,
    BitVec.toNat_ofNat, BitVec.toNat_ofNat, hr]

/-- One turn of the rejection loop (R52), the draw's new state as the draw gives it. -/
theorem nextintLoop_turn (bound : Int) (fuel : Nat) (st : Word48) :
    nextintLoop bound (fuel + 1) st =
      if accepts (next 31 st).1 ((next 31 st).1 % bound) bound then
        some ((next 31 st).1 % bound, (next 31 st).2)
      else nextintLoop bound fuel (next 31 st).2 := by
  rw [nextintLoop]

/-- One turn of the rejection loop (R52). -/
theorem nextintLoop_succ (bound : Int) (fuel : Nat) (st : Word48) :
    nextintLoop bound (fuel + 1) st =
      if accepts (next 31 st).1 ((next 31 st).1 % bound) bound then
        some ((next 31 st).1 % bound, lcgStep st)
      else nextintLoop bound fuel (lcgStep st) := by
  rw [nextintLoop_turn, next_snd]

/-- The loop ends at the first accepted draw, when the fuel reaches it (R52, R57). -/
theorem nextintLoop_first_accepted {bound : Int} {fuel n : Nat} {st : Word48} (hn : n < fuel)
    (hrej : ∀ j < n, accepts (next 31 (lcgStep^[j] st)).1 ((next 31 (lcgStep^[j] st)).1 % bound) bound = false)
    (hacc : accepts (next 31 (lcgStep^[n] st)).1 ((next 31 (lcgStep^[n] st)).1 % bound) bound = true) :
    nextintLoop bound fuel st = some ((next 31 (lcgStep^[n] st)).1 % bound, lcgStep^[n + 1] st) := by
  induction n generalizing fuel st with
  | zero =>
    obtain ⟨f, rfl⟩ := Nat.exists_eq_succ_of_ne_zero (by omega : fuel ≠ 0)
    rw [Function.iterate_zero, id_eq] at hacc
    rw [Nat.succ_eq_add_one, nextintLoop_succ, if_pos hacc, Function.iterate_zero, id_eq, Function.iterate_succ_apply,
      Function.iterate_zero, id_eq]
  | succ n ih =>
    obtain ⟨f, rfl⟩ := Nat.exists_eq_succ_of_ne_zero (by omega : fuel ≠ 0)
    have h0 := hrej 0 (by omega)
    rw [Function.iterate_zero, id_eq] at h0
    rw [Function.iterate_succ_apply] at hacc
    have hrest : ∀ j < n, accepts (next 31 (lcgStep^[j] (lcgStep st))).1
        ((next 31 (lcgStep^[j] (lcgStep st))).1 % bound) bound = false := by
      intro j hj
      rw [← Function.iterate_succ_apply]
      exact hrej (j + 1) (by omega)
    rw [Nat.succ_eq_add_one, nextintLoop_succ, if_neg (by rw [h0]; exact Bool.false_ne_true),
      ih (by omega) hrest hacc, Function.iterate_succ_apply lcgStep (n + 1) st, Function.iterate_succ_apply lcgStep n st]

/-- What the loop answers is a remainder by the bound. -/
theorem nextintLoop_some {bound : Int} {fuel : Nat} {st : Word48} {d : Int × Word48}
    (h : nextintLoop bound fuel st = some d) : ∃ bits : Int, d.1 = bits % bound := by
  induction fuel generalizing st with
  | zero => simp [nextintLoop] at h
  | succ f ih =>
    rw [nextintLoop_succ] at h
    split at h
    · exact ⟨_, by cases h; rfl⟩
    · exact ih h

end Sys2Proof.Machine
end

