-- ==== Sys2Proof/Laws/PerInstr.lean ====
section
/-! SUPPORT. One statement about every command as syntax, proved constructor by constructor. -/

namespace Sys2Proof.Laws.EncodedRow

/-- The word a command is encoded with satisfies the match and mask of that command's own row of R39. -/
def Statement (i : Instr) : Prop :=
  ∃ r ∈ opcodeRows, r.name = i.mnemonic ∧ (encode i).word &&& r.mask = r.pattern

theorem setseed (a : Word64) : Statement (.setseed a) :=
  ⟨_, (selectRow_some selectRow_setseed).1, rfl, (selectRow_some selectRow_setseed).2⟩

theorem next (n : BitVec 6) : Statement (.next n) :=
  ⟨_, (selectRow_some (selectRow_next n).1).1, rfl, (selectRow_some (selectRow_next n).1).2⟩

theorem nextint (b : Word32) : Statement (.nextint b) :=
  ⟨_, (selectRow_some selectRow_nextint).1, rfl, (selectRow_some selectRow_nextint).2⟩

theorem nextlong : Statement .nextlong :=
  ⟨_, (selectRow_some selectRow_nextlong).1, rfl, (selectRow_some selectRow_nextlong).2⟩

theorem nextfloat : Statement .nextfloat :=
  ⟨_, (selectRow_some selectRow_nextfloat).1, rfl, (selectRow_some selectRow_nextfloat).2⟩

theorem setregion (a : Word64) (b c : Word32) (d : Word64) : Statement (.setregion a b c d) :=
  ⟨_, (selectRow_some selectRow_setregion).1, rfl, (selectRow_some selectRow_setregion).2⟩

theorem setcarver (a : Word64) (b c : Word32) : Statement (.setcarver a b c) :=
  ⟨_, (selectRow_some selectRow_setcarver).1, rfl, (selectRow_some selectRow_setcarver).2⟩

end Sys2Proof.Laws.EncodedRow
end

