-- ==== Sys2Proof/Laws/Period.lean ====
section
/-! SUPPORT. The arithmetic behind rule R57: a state comes back only after a multiple of `2^48` steps. The multiplier is
1 modulo 4 and the increment odd, so the closed form of `m` steps decides it. -/

namespace Sys2Proof.Machine

/-- `1 + a + … + a^(m-1)`. -/
def geomSum (a : Nat) : Nat → Nat
  | 0 => 0
  | m + 1 => a * geomSum a m + 1

theorem geomSum_add (a j k : Nat) : geomSum a (j + k) = a ^ k * geomSum a j + geomSum a k := by
  induction k with
  | zero => simp [geomSum]
  | succ k ih => rw [← Nat.add_assoc, geomSum, ih, geomSum, pow_succ]; ring

theorem pow_eq_geomSum (a m : Nat) : (a + 1) ^ m = a * geomSum (a + 1) m + 1 := by
  induction m with
  | zero => simp [geomSum]
  | succ m ih => rw [pow_succ, ih, geomSum]; ring

/-- `m` steps in closed form, modulo `2^48`. -/
theorem lcgStep_iterate_closed (m : Nat) (x : Word48) :
    (lcgStep^[m] x).toNat ≡ 25214903917 ^ m * x.toNat + 11 * geomSum 25214903917 m [MOD 2 ^ 48] := by
  induction m with
  | zero => simp only [Function.iterate_zero, id_eq, pow_zero, one_mul, geomSum, mul_zero, add_zero]; rfl
  | succ m ih =>
    rw [Function.iterate_succ_apply', lcgStep_toNat, geomSum, pow_succ 25214903917 m]
    have hstep : 25214903917 * (25214903917 ^ m * x.toNat + 11 * geomSum 25214903917 m) + 11 =
        25214903917 ^ m * 25214903917 * x.toNat + 11 * (25214903917 * geomSum 25214903917 m + 1) := by ring
    rw [← hstep]
    exact (Nat.mod_modEq _ _).trans ((ih.mul_left _).add_right 11)

theorem geomSum_mod_two {a : Nat} (ha : a % 4 = 1) (m : Nat) : geomSum a m % 2 = m % 2 := by
  induction m with
  | zero => rfl
  | succ m ih => rw [geomSum, Nat.add_mod, Nat.mul_mod, ih, (by omega : a % 2 = 1)]; omega

theorem pow_mod_four {a : Nat} (ha : a % 4 = 1) (m : Nat) : a ^ m % 4 = 1 := by
  rw [Nat.pow_mod, ha, one_pow, Nat.one_mod_eq_one.2 (by decide)]

/-- A power of two that divides the sum divides its number of terms. -/
theorem two_pow_dvd_of_dvd_geomSum {a : Nat} (ha : a % 4 = 1) {n m : Nat} (h : 2 ^ n ∣ geomSum a m) : 2 ^ n ∣ m := by
  induction n generalizing m with
  | zero => simp
  | succ n ih =>
    have heven : m % 2 = 0 := by
      rw [← geomSum_mod_two ha]
      exact Nat.mod_eq_zero_of_dvd ((dvd_pow_self 2 (Nat.succ_ne_zero n)).trans h)
    obtain ⟨j, rfl⟩ : ∃ j, m = j + j := ⟨m / 2, by omega⟩
    obtain ⟨q, hq⟩ : ∃ q, a ^ j + 1 = 2 * (2 * q + 1) := ⟨a ^ j / 4, by have := pow_mod_four ha j; omega⟩
    have hsum : geomSum a (j + j) = 2 * (geomSum a j * (2 * q + 1)) := by
      rw [geomSum_add, ← Nat.succ_mul, Nat.succ_eq_add_one, hq]; ring
    rw [hsum, pow_succ, Nat.mul_comm (2 ^ n)] at h
    have hodd : Nat.Coprime (2 ^ n) (2 * q + 1) := Nat.Coprime.pow_left n (by simp)
    have hj := ih (hodd.dvd_of_dvd_mul_right (Nat.dvd_of_mul_dvd_mul_left (by decide) h))
    rw [pow_succ, ← Nat.mul_two]
    exact Nat.mul_dvd_mul_right hj 2

/-- A state comes back only after a multiple of `2^48` steps (R57). -/
theorem two_pow_dvd_of_lcgStep_iterate_eq {m : Nat} {x : Word48} (h : lcgStep^[m] x = x) : 2 ^ 48 ∣ m := by
  have hc := lcgStep_iterate_closed m x
  rw [h, pow_eq_geomSum 25214903916] at hc
  have hd : 2 ^ 48 ∣ geomSum 25214903917 m * (25214903916 * x.toNat + 11) := by
    have hsum : (25214903916 * geomSum 25214903917 m + 1) * x.toNat + 11 * geomSum 25214903917 m =
        x.toNat + geomSum 25214903917 m * (25214903916 * x.toNat + 11) := by ring
    rw [hsum] at hc
    exact Nat.modEq_zero_iff_dvd.1 (Nat.ModEq.add_left_cancel' x.toNat hc.symm)
  have hodd : Nat.Coprime (2 ^ 48) (25214903916 * x.toNat + 11) :=
    Nat.Coprime.pow_left 48 (Nat.coprime_two_left.2 ⟨12607451958 * x.toNat + 5, by ring⟩)
  exact two_pow_dvd_of_dvd_geomSum (by decide) (hodd.dvd_of_dvd_mul_right hd)

end Sys2Proof.Machine
end

