-- ==== Sys2Proof/Machine/Assembler.lean ====
section
/-! DEFINITION. The textual form of commands (spec/30_encoding.md R44) and the source's spellings of them (R45): one
line of a listing to the command it stands for. It is a tool of the host; no command of the block uses it. -/

namespace Sys2Proof.Machine

/-- The mnemonic in capitals (R44) or the source's spelling (R45) to the row it names. -/
def mnemonicOfName : List (String × Mnemonic) :=
  [ ("SETSEED", .SETSEED), ("NEXT", .NEXT), ("NEXTINT", .NEXTINT), ("NEXTLONG", .NEXTLONG),
    ("NEXTFLOAT", .NEXTFLOAT), ("SETREGION", .SETREGION), ("SETCARVER", .SETCARVER),
    ("set_seed", .SETSEED), ("next", .NEXT), ("next_int", .NEXTINT), ("next_long", .NEXTLONG),
    ("next_float", .NEXTFLOAT), ("set_region_seed", .SETREGION), ("set_carver_seed", .SETCARVER) ]

/-- Whether a name is one of the source's spellings, which are written as calls (R45). -/
def isCallSpelling (name : List Char) : Bool := name.any Char.isLower

def isBlank (c : Char) : Bool := c == ' ' || c == '\t'

def trimBlanks (cs : List Char) : List Char :=
  ((cs.dropWhile isBlank).reverse.dropWhile isBlank).reverse

/-- The line without its comment (R44: a `;` starts one). -/
def stripComment (cs : List Char) : List Char := cs.takeWhile (fun c => c != ';')

/-- The pieces between commas; a line without operands has none. -/
def splitCommas (cs : List Char) : List (List Char) :=
  let pieces := cs.foldr
    (fun c acc => if c == ',' then [] :: acc else
      match acc with
      | [] => [[c]]
      | p :: ps => (c :: p) :: ps) [[]]
  if (trimBlanks cs).isEmpty then [] else pieces

/-- The value of a digit in a base up to 16. -/
def digitValue (base : Nat) (c : Char) : Option Nat :=
  let n := c.toNat
  let v := if 48 ≤ n ∧ n ≤ 57 then n - 48 else if 65 ≤ n ∧ n ≤ 70 then n - 55
    else if 97 ≤ n ∧ n ≤ 102 then n - 87 else 16
  if v < base then some v else none

/-- A non-empty string of digits as a number. -/
def parseDigits (base : Nat) (cs : List Char) : Option Nat :=
  if cs.isEmpty then none
  else cs.foldl (fun acc c => acc.bind fun n => (digitValue base c).map fun v => n * base + v) (some 0)

/-- An integer of R44: decimal with an optional leading `-`, or hexadecimal with `0x`. -/
def parseInteger (cs : List Char) : Option Int :=
  match trimBlanks cs with
  | '0' :: 'x' :: hex => (parseDigits 16 hex).map Int.ofNat
  | '-' :: dec => (parseDigits 10 dec).map fun n => -(n : Int)
  | dec => (parseDigits 10 dec).map Int.ofNat

/-- An integer as an operand at a port's width, negative ones in two's complement (R44). An integer that does not fit
the port is rejected. DESIGN CHOICE: log entry 10. -/
def portOperand (w : Nat) (i : Int) : Option (BitVec w) :=
  if -2 ^ (w - 1) ≤ i ∧ i < 2 ^ w then some (BitVec.ofInt w i) else none

/-- The command of a row with these integers as its operands, in R44's order; the form is rejected when the number of
operands is not the row's. -/
def assembleOperands (m : Mnemonic) (args : List Int) : Option Instr :=
  match m, args with
  | .SETSEED, [a] => (portOperand 64 a).map .setseed
  | .NEXT, [n] => if 0 ≤ n then (portOperand 6 n).map .next else none
  | .NEXTINT, [b] => (portOperand 32 b).map .nextint
  | .NEXTLONG, [] => some .nextlong
  | .NEXTFLOAT, [] => some .nextfloat
  | .SETREGION, [a, b, c, d] =>
    match portOperand 64 a, portOperand 32 b, portOperand 32 c, portOperand 64 d with
    | some a, some b, some c, some d => some (.setregion a b c d)
    | _, _, _, _ => none
  | .SETCARVER, [a, b, c] =>
    match portOperand 64 a, portOperand 32 b, portOperand 32 c with
    | some a, some b, some c => some (.setcarver a b c)
    | _, _, _ => none
  | _, _ => none

/-- The operand text of a call spelling, between its parentheses (R45). -/
def callArguments (cs : List Char) : Option (List Char) :=
  match cs, cs.getLast? with
  | '(' :: rest, some ')' => some rest.dropLast
  | _, _ => none

/-- The integers of an operand list; `none` where one of them is not an integer of R44. -/
def parseIntegers : List (List Char) → Option (List Int)
  | [] => some []
  | p :: ps => (parseInteger p).bind fun i => (parseIntegers ps).map fun is => i :: is

/-- One line of a listing (R44, R45) to its command. -/
def assembleLine (line : String) : Option Instr :=
  let cs := trimBlanks (stripComment line.toList)
  let name := cs.takeWhile (fun c => !(isBlank c) && c != '(')
  let after := trimBlanks (cs.drop name.length)
  let operands := if isCallSpelling name then callArguments after else some after
  match mnemonicOfName.find? (fun r => r.1.toList == name), operands with
  | some r, some args => (parseIntegers (splitCommas args)).bind (assembleOperands r.2)
  | _, _ => none

end Sys2Proof.Machine
end

