-- ==== Sys2Proof/Tests/Slice0.lean ====
section
/-! SUPPORT. Small tests, their expected values from the vectors of spec/95_test_vectors.md (named V<n>, P<n>), the
well-formedness smoke test, and for each statement of Certificates/Slice0/Obligations.lean a witness that meets its
hypotheses (witness_<what>). -/

namespace Sys2Proof.Tests

open Sys2Proof.Machine Sys2Proof.Claims

/-- A state that holds `x`, with nothing answered and nothing to do. -/
def holding (x : Word48) : State := ⟨x, none, [], [], 0⟩

/-- A state that holds `x`, the host about to do `h`. -/
def facing (x : Word48) (h : List HostEvent) : State := ⟨x, none, [], h, 0⟩

/-- What a step leaves in `state` and on the response port. -/
def seen : Host.Outcome State Fault Refusal → Option (Word48 × Option Response)
  | .next t => some (t.state, t.rsp)
  | .fault _ => none
  | .refused _ => none

/-! Well-formedness: a term outside the domain for each check, and its nearest neighbour inside (V72, V73, V75). -/

theorem test_wf_next_zero : (Instr.next 0).wf = false ∧ (Instr.next 1).wf = true := by decide
theorem test_wf_next_33 : (Instr.next 33).wf = false ∧ (Instr.next 32).wf = true := by decide
theorem test_wf_nextint_negative : (Instr.nextint 0xFFFFFFFF).wf = false ∧ (Instr.nextint 0).wf = true := by decide

/-! Decoding, the words written out bit by bit from R36 and R39. -/

theorem test_decode_setseed : decode ⟨0b0000000100000000#16, 42, 1, 2, 3⟩ = .ok (.setseed 42) := by decide
theorem test_decode_next : decode ⟨0b0000001000100000#16, 0, 0, 0, 0⟩ = .ok (.next 32) := by decide
theorem test_decode_next_zero : decode ⟨0b0000001000000000#16, 0, 0, 0, 0⟩ = .ok (.next 0) := by decide
theorem test_decode_nextint : decode ⟨0b0000001100000000#16, 1, 10, 2, 3⟩ = .ok (.nextint 10) := by decide
theorem test_decode_nextlong : decode ⟨0b0000010000000000#16, 1, 2, 3, 4⟩ = .ok .nextlong := by decide
theorem test_decode_nextfloat : decode ⟨0b0000010100000000#16, 1, 2, 3, 4⟩ = .ok .nextfloat := by decide
theorem test_decode_setregion : decode ⟨0b0000011000000000#16, 1, 2, 3, 4⟩ = .ok (.setregion 1 2 3 4) := by decide
theorem test_decode_setcarver : decode ⟨0b0000011100000000#16, 1, 2, 3, 4⟩ = .ok (.setcarver 1 2 3) := by decide
/-- V68, V77: the all-zero and the all-ones word. -/
theorem test_decode_unassigned :
    decode ⟨0x0000, 0, 0, 0, 0⟩ = .error .unassignedOpcode ∧
    decode ⟨0xFFFF, 0, 0, 0, 0⟩ = .error .unassignedOpcode := by decide
/-- V71. -/
theorem test_decode_reserved : decode ⟨0x0260, 0, 0, 0, 0⟩ = .error .reservedBitsSet := by decide
/-- V70. -/
theorem test_decode_immediate : decode ⟨0x0101, 0, 0, 0, 0⟩ = .error .immediateNotZero := by decide
theorem test_table_word : decodeTableWord 16 0x0218 = some (.next 24) := by decide

/-! Meanings. -/

/-- V3. -/
theorem test_setseed_negative : seen (exec (.setseed (-1)) (holding 5)) = some (0xFFFA21131992, some ⟨.ok, 0⟩) := by
  decide
/-- V4: bits 63:48 are dropped. -/
theorem test_setseed_high_bits :
    seen (exec (.setseed 0x0001000000000000) (holding 5)) = some (0x0005DEECE66D, some ⟨.ok, 0⟩) := by decide
/-- V20: the most negative draw. -/
theorem test_next_32_negative :
    seen (exec (.next 32) (holding 0xE15C0E462AA9)) = some (0x800000000000, some ⟨.ok, 0xFFFFFFFF80000000⟩) := by decide
/-- V19: the largest 31-bit draw. -/
theorem test_next_31_largest :
    seen (exec (.next 31) (holding 0x817BB27B1744)) = some (0xFFFFFFFFFFFF, some ⟨.ok, 2147483647⟩) := by decide
/-- V36: two rejections, which an exact-integer test would not make. -/
theorem test_nextint_rejects :
    seen (exec (.nextint 0x40000001) (holding 0x0005DEECE66D)) = some (0x3D93CB7AB84E, some ⟨.ok, 516548029⟩) := by
  decide
/-- V25: the largest power of two. -/
theorem test_nextint_shift :
    seen (exec (.nextint 0x40000000) (holding 0x0005DEECE66D)) = some (0xBB20B4600A74, some ⟨.ok, 784870680⟩) := by
  decide
/-- V40: a negative second draw. -/
theorem test_nextlong_borrow :
    seen (exec .nextlong (holding 0x0005DEECE66D)) = some (0xD4D95138AB6F, some ⟨.ok, 0xBB20B45FD4D95138⟩) := by decide
/-- V43: the sum wraps. -/
theorem test_nextlong_wraps :
    seen (exec .nextlong (holding 0xE15C0E462AA9)) = some (0x80000000000B, some ⟨.ok, 0x7FFFFFFF80000000⟩) := by decide
/-- V51. -/
theorem test_nextfloat_three :
    seen (exec .nextfloat (holding 0xBF3382DC26F4)) = some (0x000003ABCDEF, some ⟨.ok, 0x34400000⟩) := by decide
/-- V49: the largest value. -/
theorem test_nextfloat_largest :
    seen (exec .nextfloat (holding 0x92E5EEDC26F4)) = some (0xFFFFFFABCDEF, some ⟨.ok, 0x3F7FFFFF⟩) := by decide
/-- V53: negative coordinates. -/
theorem test_setregion_negative :
    seen (exec (.setregion 1449 0xFFFFFFFD 0xFFFFFFFF 165745295) (holding 0)) =
      some (0xFEF792303B26, some ⟨.ok, 0⟩) := by decide
/-- V57: the sum overflows. -/
theorem test_setregion_overflow :
    seen (exec (.setregion (-1) 0x80000000 0x80000000 (-1)) (holding 0)) =
      some (0xD794A1131993, some ⟨.ok, 0⟩) := by decide
/-- V64. -/
theorem test_setcarver_negative :
    seen (exec (.setcarver 1449 0xFFFFFFCA 0xFFFFFFF2) (holding 0)) = some (0xE04188EF8586, some ⟨.ok, 0⟩) := by decide
/-- V66. -/
theorem test_setcarver_extremes :
    seen (exec (.setcarver (-1) 0x7FFFFFFF 0x80000000) (holding 0)) = some (0xDB652E6BC4AF, some ⟨.ok, 0⟩) := by decide

/-! The step: status codes (V72, V75, V78), reset, and a word placed as the first command. -/

theorem test_step_illegal_operand :
    seen (step (facing 7 [.command ⟨0x0200, 0, 0, 0, 0⟩])) = some (7, some ⟨.illegalOperand, 0⟩) := by decide
theorem test_step_negative_bound :
    seen (step (facing 7 [.command ⟨0x0300, 0, 0xFFFFFFFF, 0, 0⟩])) = some (7, some ⟨.illegalOperand, 0⟩) := by decide
theorem test_step_word_before_operand :
    seen (step (facing 7 [.command ⟨0x0340, 0, 0xFFFFFFFF, 0, 0⟩])) = some (7, some ⟨.illegalCommand, 0⟩) := by decide
theorem test_first_word_runs :
    seen (step (State.reset.withFetchWord 16 0x0100)) = some (0x0005DEECE66D, some ⟨.ok, 0⟩) := by decide

/-! The assembler (R44, R45), lines of P2 and an alias. -/

theorem test_assemble_setregion :
    assembleLine "SETREGION 1449, -3, -1, 165745295 ; P2" =
      some (.setregion 0x5A9 0xFFFFFFFD 0xFFFFFFFF 0x9E1128F) := by decide
theorem test_assemble_call : assembleLine "next_int(0x0A)" = some (.nextint 10) := by decide
theorem test_assemble_too_many : assembleLine "NEXTLONG 3" = none := by decide

/-! Witnesses: the hypotheses of each statement can be met, at the ends of their ranges. -/

theorem witness_ScrambleLaws : (0x0001000000000000 : Word64).setWidth 48 = (0 : Word64).setWidth 48 := by decide
theorem witness_NextValueLaws : (1 : Nat) ≤ 1 ∧ (1 : Nat) ≤ 31 ∧ (31 : Nat) ≤ 31 := by decide
theorem witness_PowerOfTwoTest :
    (2147483647 : Nat) < 2 ^ 31 ∧ isPow2OrZero (0 : Nat) = true ∧ isPow2OrZero (2 ^ 30 : Nat) = true ∧
      isPow2OrZero (20 : Nat) = false := by decide
/-- V37: the one rejected draw of the largest bound, and its neighbour. -/
theorem witness_AcceptanceTest :
    (0 : Nat) < 2147483647 ∧ (2147483647 : Nat) < 2 ^ 31 ∧ ¬ Accepted 2147483647 2147483647 ∧
      Accepted 2147483646 2147483647 := by decide
theorem witness_Binary32 : (1 : Nat) < 16777215 ∧ (16777215 : Nat) < 2 ^ 24 ∧ f32bits 1 = 0x33800000 := by decide
theorem witness_NextDraws :
    1 ≤ (1 : BitVec 6).toNat ∧ (32 : BitVec 6).toNat ≤ 32 ∧ (0 : BitVec 6).toNat = 0 ∧ 33 ≤ (33 : BitVec 6).toNat := by
  decide
theorem witness_Nextint_negative : (0x80000000 : Word32).msb = true := by decide
theorem witness_Nextint_pow2 : IsPow2 1 ∧ IsPow2 0x40000000 := ⟨⟨0, by decide, by decide⟩, ⟨30, by decide, by decide⟩⟩
theorem not_isPow2_three : ¬ IsPow2 3 := by
  rintro ⟨k, hk, h⟩
  have h3 : (3 : Word32).toNat = 3 := by decide
  rw [h3] at h
  interval_cases k <;> omega
/-- V27: the first draw is accepted. -/
theorem witness_Nextint_modulo_first :
    (3 : Word32).msb = false ∧ (3 : Word32) ≠ 0 ∧ ¬ IsPow2 3 ∧ (0 : Nat) < 2 ^ 48 ∧
      Accepted32 (top31 (step48^[0 + 1] 0x0005DEECE66D)) 3 :=
  ⟨by decide, by decide, not_isPow2_three, by decide, by decide⟩
/-- V36: two draws rejected, the third accepted. -/
theorem witness_Nextint_modulo_third :
    (∀ j < 2, ¬ Accepted32 (top31 (step48^[j + 1] 0x0005DEECE66D)) 0x40000001) ∧
      Accepted32 (top31 (step48^[2 + 1] 0x0005DEECE66D)) 0x40000001 := by decide
theorem not_isPow2_large : ¬ IsPow2 0x40000001 := by
  rintro ⟨k, hk, h⟩
  have h3 : (0x40000001 : Word32).toNat = 1073741825 := by decide
  rw [h3] at h
  interval_cases k <;> omega
theorem witness_NextintPow2 : (1 : Nat) ≤ 1 ∧ (1 : Nat) ≤ 30 ∧ (30 : Nat) ≤ 30 := by decide
theorem witness_NextintAlways : (0x7FFFFFFF : Word32).msb = false ∧ (0x7FFFFFFF : Word32) ≠ 0 := by decide
theorem witness_SeedingForgets : isSeeding (.setcarver 0 0 0) = true := by decide
theorem witness_ExecFrame :
    exec (.setseed 0) (holding 0) = .next (answered (holding 0) 0x0005DEECE66D ⟨.ok, 0⟩) := by rfl
theorem witness_EncodeDecode : decode ⟨0x0300, 0, 10, 0, 0⟩ = .ok (.nextint 10) := by decide
theorem witness_Rows : (⟨.NEXT, 0x0200#16, 0xFFC0#16⟩ : Row) ∈ opcodeRows ∧
    Row.selects ⟨.NEXT, 0x0200#16, 0xFFC0#16⟩ 0x023F#16 = true := by decide
/-- V79 beside V40: all unused ports ones, and all zero. -/
theorem witness_UnusedPorts :
    (⟨0x0400, -1, -1, -1, -1⟩ : Command).word = (⟨0x0400, 0, 0, 0, 0⟩ : Command).word ∧
      ¬ ((0x0400 : Word16) = 0x0100 ∨ (0x0400 : Word16) = 0x0300 ∨ (0x0400 : Word16) = 0x0600 ∨
        (0x0400 : Word16) = 0x0700) := by decide
theorem witness_IllegalWord : WordIllegal 0x0000 ∧ WordIllegal 0x0800 ∧ WordIllegal 0x0260 ∧ WordIllegal 0x0101 ∧
    ¬ WordIllegal 0x0700 ∧ ¬ WordIllegal 0x023F := by decide
theorem witness_OperandIllegal : OperandIllegal 0x0200 0 ∧ OperandIllegal 0x0221 0 ∧ OperandIllegal 0x0300 0x80000000 ∧
    ¬ OperandIllegal 0x0220 0 ∧ ¬ OperandIllegal 0x0300 0x7FFFFFFF := by decide
theorem witness_NonOk :
    (facing 7 [.command ⟨0, 0, 0, 0, 0⟩]).host = .command ⟨0, 0, 0, 0, 0⟩ :: [] ∧
      step (facing 7 [.command ⟨0, 0, 0, 0, 0⟩]) = .next (answered (holding 7) 7 ⟨.illegalCommand, 0⟩) ∧
      Status.illegalCommand ≠ .ok := ⟨rfl, rfl, by decide⟩
theorem witness_InDomain : (Instr.next 1).wf = true ∧ (Instr.next 32).wf = true ∧ (Instr.nextint 0).wf = true := by
  decide
theorem witness_ResponsePort :
    (answered (holding 0) 0 ⟨.illegalOperand, 0⟩).inv = true ∧
      (answered (holding 0) 0 ⟨.illegalOperand, 0⟩).rspValid = true := by decide
theorem witness_StepRuns :
    (facing 0 [.command ⟨0x0400, 0, 0, 0, 0⟩]).host = .command ⟨0x0400, 0, 0, 0, 0⟩ :: [] ∧
      decode ⟨0x0400, 0, 0, 0, 0⟩ = .ok .nextlong := by decide
theorem witness_ResetEvent :
    (facing 0 [.reset]).host = .reset :: [] ∧
      (facing 0 [.resetDuring ⟨0x0400, 0, 0, 0, 0⟩]).host = .resetDuring ⟨0x0400, 0, 0, 0, 0⟩ :: [] := by decide
theorem witness_Idle : (facing 0 [.idle]).host = .idle :: [] ∧ (holding 0).host = [] := by decide
theorem witness_StepKeepsInv :
    (facing 0 [.idle]).inv = true ∧ step (facing 0 [.idle]) = .next ⟨0, none, [], [], 1⟩ := ⟨by decide, rfl⟩
theorem witness_RunIsAFold :
    (facing 0 [.command ⟨0x0100, 0, 0, 0, 0⟩, .command ⟨0x0220, 0, 0, 0, 0⟩]).host =
      [(⟨0x0100, 0, 0, 0, 0⟩ : Command), ⟨0x0220, 0, 0, 0, 0⟩].map HostEvent.command := by decide
/-- Seeding, then a draw; and a reset in between, which asks for seeding again. -/
theorem witness_SeededRuns :
    seedsBeforeDrawing false [.command ⟨0x0100, 0, 0, 0, 0⟩, .command ⟨0x0220, 0, 0, 0, 0⟩] = true ∧
      seedsBeforeDrawing false [.command ⟨0x0100, 0, 0, 0, 0⟩, .reset, .command ⟨0x0220, 0, 0, 0, 0⟩] = false := by
  decide
theorem witness_GoodRuns :
    (facing 0 [.command ⟨0x0100, 0, 0, 0, 0⟩, .reset, .command ⟨0x0220, 0, 0, 0, 0⟩]).allOk = true ∧
      commandsInDomain [.command ⟨0x0100, 0, 0, 0, 0⟩, .reset, .command ⟨0x0220, 0, 0, 0, 0⟩] = true := by decide
theorem witness_Instances : (0 : Fin [holding 0, holding 1].length) ≠ 1 := by decide

end Sys2Proof.Tests
end

section
/-! SUPPORT. What the seeding commands do (spec/10_state.md R12, spec/70_reset_and_hazards.md R83): each completes with
data 0 and a new `state` that its operands alone determine. -/

namespace Sys2Proof.Machine

/-- R48. -/
theorem exec_setseed (a : Word64) (s : State) : exec (.setseed a) s = .next (s.complete (scramble a) 0) := rfl

/-- R62. -/
theorem exec_setregion (a : Word64) (b c : Word32) (d : Word64) (s : State) :
    exec (.setregion a b c d) s = .next (s.complete (scramble (regionMix a b c d)) 0) := rfl

/-- R64. -/
theorem exec_setcarver (a : Word64) (b c : Word32) (s : State) :
    exec (.setcarver a b c) s = .next (s.complete (scramble (carverMix a b c)) 0) := rfl

/-- Completing a command overwrites whatever `state` held (R12). -/
@[simp] theorem complete_update_state (s : State) (x y : Word48) (d : Word64) :
    ({ s with state := x } : State).complete y d = s.complete y d := rfl

/-- R12, R83: the value a seeding command leaves in `state` is chosen before the state it is performed in, so it cannot
depend on that state. -/
theorem exists_exec_eq_complete_of_isSeeding {i : Instr} (h : isSeeding i = true) :
    ∃ v : Word48, ∀ s : State, exec i s = .next (s.complete v 0) := by
  cases i with
  | setseed a => exact ⟨_, exec_setseed a⟩
  | setregion a b c d => exact ⟨_, exec_setregion a b c d⟩
  | setcarver a b c => exact ⟨_, exec_setcarver a b c⟩
  | next _ | nextint _ | nextlong | nextfloat => simp [isSeeding] at h

end Sys2Proof.Machine

namespace Sys2Proof.Proofs

open Sys2Proof.Machine

/-- Settles O24: a seeding command completes with a value `v` that is the same from every state, so the old `state` is
overwritten unread and a second performance writes `v` again. -/
theorem seedingForgetsTheOldState : Obligations.SeedingForgetsTheOldState := by
  unfold Obligations.SeedingForgetsTheOldState
  intro i s x hi
  obtain ⟨v, hv⟩ := exists_exec_eq_complete_of_isSeeding hi
  refine ⟨s.complete v 0, hv s, ?_, (s.complete v 0).complete v 0, hv _, ?_⟩
  · rw [hv, complete_update_state]
  · rw [complete_state, complete_state]

end Sys2Proof.Proofs
end

section
/-! SUPPORT. The rejection loop of `NEXTINT` ends within its fuel (spec/41_derived_draws.md R57): `2^48` steps run through
every content of `state`, so a draw of 0 comes, and every bound accepts it. -/

namespace Sys2Proof.Machine

/-- R57: fewer than `2^48` steps do not come back to a state already passed. -/
theorem lcgStep_iterate_injective (x : Word48) :
    Function.Injective fun k : Fin (2 ^ 48) => lcgStep^[k.1] x := by
  have hlt : ∀ i j : Fin (2 ^ 48), i.1 < j.1 → lcgStep^[i.1] x ≠ lcgStep^[j.1] x := by
    intro i j hij h
    have hback : lcgStep^[j.1 - i.1] (lcgStep^[i.1] x) = lcgStep^[i.1] x := by
      rw [← Function.iterate_add_apply, Nat.sub_add_cancel hij.le, h]
    have hle := Nat.le_of_dvd (Nat.sub_pos_of_lt hij) (two_pow_dvd_of_lcgStep_iterate_eq hback)
    omega
  intro i j h
  rcases lt_trichotomy i.1 j.1 with hij | hij | hij
  · exact absurd h (hlt i j hij)
  · exact Fin.ext hij
  · exact absurd h.symm (hlt j i hij)

/-- R57: from every state, every 48-bit value is reached in fewer than `2^48` steps. -/
theorem exists_lcgStep_iterate_eq (x y : Word48) : ∃ k < 2 ^ 48, lcgStep^[k] x = y := by
  have hinj : Function.Injective fun k : Fin (2 ^ 48) => (lcgStep^[k.1] x).toFin :=
    fun i j h => lcgStep_iterate_injective x (BitVec.toFin_inj.1 h)
  obtain ⟨k, hk⟩ := Finite.injective_iff_surjective.1 hinj y.toFin
  exact ⟨k.1, k.2, BitVec.toFin_inj.1 hk⟩

/-- From every state the draw of 31 zero bits comes within `2^48` draws (R57). -/
theorem exists_next_31_eq_zero (st : Word48) : ∃ k < 2 ^ 48, (next 31 (lcgStep^[k] st)).1 = 0 := by
  obtain ⟨k, hk, hzero⟩ := exists_lcgStep_iterate_eq (lcgStep st) 0
  refine ⟨k, hk, ?_⟩
  have hnew : lcgStep (lcgStep^[k] st) = 0 := by
    rw [← Function.iterate_succ_apply' lcgStep, Function.iterate_succ_apply, hzero]
  rw [next_fst_of_le_31 le_rfl, hnew]
  rfl

/-- Every positive bound accepts the draw 0 (R52). -/
theorem accepts_zero {bound : Int} (hpos : 0 < bound) (hlt : bound < 2 ^ 31) :
    accepts 0 (0 % bound) bound = true := by
  have hs : s32 (0 - 0 % bound + (bound - 1)) = bound - 1 := by
    rw [Int.zero_emod, s32, wrap, BitVec.toInt_ofInt, Int.bmod_eq_of_le (by omega) (by omega)]
    omega
  rw [accepts, hs]
  exact decide_eq_true (by omega)

/-- R57: for a positive bound the rejection loop ends within the model's fuel, from every state. -/
theorem exists_nextintLoop_eq_some {bound : Int} (hpos : 0 < bound) (hlt : bound < 2 ^ 31) (st : Word48) :
    ∃ d, nextintLoop bound Config.nextintFuel st = some d := by
  obtain ⟨k, hk, hdraw⟩ := exists_next_31_eq_zero st
  have hacc : accepts (next 31 (lcgStep^[k] st)).1 ((next 31 (lcgStep^[k] st)).1 % bound) bound = true := by
    rw [hdraw]
    exact accepts_zero hpos hlt
  have hex : ∃ n, accepts (next 31 (lcgStep^[n] st)).1 ((next 31 (lcgStep^[n] st)).1 % bound) bound = true :=
    ⟨k, hacc⟩
  have hfuel : Nat.find hex < Config.nextintFuel := lt_of_le_of_lt (Nat.find_min' hex hacc) hk
  exact ⟨_, nextintLoop_first_accepted hfuel
    (fun j hj => Bool.eq_false_iff.2 (Nat.find_min hex hj)) (Nat.find_spec hex)⟩

/-- A bound in the domain that fails the power-of-two test is positive, since zero passes it (R53). -/
theorem bound_pos_of_not_isPow2OrZero {bound : Int} (hdom : boundInDomain bound = true)
    (hpow : isPow2OrZero bound = false) : 0 < bound := by
  have hnonneg : 0 ≤ bound := of_decide_eq_true hdom
  have hne : bound ≠ 0 := by
    rintro rfl
    exact absurd hpow (by decide)
  omega

end Sys2Proof.Machine
end

section
/-! SUPPORT. What every command does (spec/20_memory.md R29, spec/60_exceptions.md R70): `state` alone decides the new
`state` and the one response. -/

namespace Sys2Proof.Machine

open Sys2Proof.Claims

theorem complete_eq_answered (s : State) (y : Word48) (d : Word64) : s.complete y d = answered s y ⟨.ok, d⟩ := rfl

theorem takeError_eq_answered (s : State) (st : Status) : s.takeError st = answered s s.state ⟨st, 0⟩ := rfl

/-- R49, inside the domain. -/
theorem exec_next_of_inDomain {n : BitVec 6} (h : bitsInDomain (bitsOperand n) = true) (s : State) :
    exec (.next n) s =
      .next (s.complete (next (bitsOperand n) s.state).2 (result32 (next (bitsOperand n) s.state).1)) :=
  if_pos h

/-- R37, R68: `NEXT` outside its domain. -/
theorem exec_next_of_not_inDomain {n : BitVec 6} (h : ¬ bitsInDomain (bitsOperand n) = true) (s : State) :
    exec (.next n) s = .next (s.takeError .illegalOperand) :=
  if_neg h

/-- R52: a negative bound. -/
theorem exec_nextint_of_not_inDomain {b : Word32} (h : ¬ boundInDomain (boundOperand b) = true) (s : State) :
    exec (.nextint b) s = .next (s.takeError .illegalOperand) :=
  if_neg h

/-- R52: the path without a loop. -/
theorem exec_nextint_of_isPow2OrZero {b : Word32} (hdom : boundInDomain (boundOperand b) = true)
    (hpow : isPow2OrZero (boundOperand b) = true) (s : State) :
    exec (.nextint b) s = .next (s.complete (next 31 s.state).2
      (result32 (s32 ((boundOperand b * (next 31 s.state).1) >>> (31 : Nat))))) :=
  (if_pos hdom).trans (if_pos hpow)

/-- R52: the rejection loop, once it has accepted a draw. -/
theorem exec_nextint_of_nextintLoop {b : Word32} {s : State} {d : Int × Word48}
    (hdom : boundInDomain (boundOperand b) = true) (hpow : isPow2OrZero (boundOperand b) = false)
    (hloop : nextintLoop (boundOperand b) Config.nextintFuel s.state = some d) :
    exec (.nextint b) s = .next (s.complete d.2 (result32 d.1)) := by
  simp only [exec, execNextint, hdom, hpow, hloop, if_true, Bool.false_eq_true, if_false]

/-- R58. -/
theorem exec_nextlong (s : State) :
    exec .nextlong s = .next (s.complete (nextLong s.state).2 (result64 (nextLong s.state).1)) := rfl

/-- R59. -/
theorem exec_nextfloat (s : State) :
    exec .nextfloat s = .next (s.complete (next 24 s.state).2 (resultF32 (next 24 s.state).1.toNat)) := rfl

/-- The meaning `m` of a command answers once, with the same new content of `state` and the same response from every
state that holds `x`, and an answer other than `OK` leaves `x` and carries data 0 (R29, R70). -/
def AnswersFrom (x : Word48) (m : State → Host.Outcome State Fault Refusal) : Prop :=
  ∃ (y : Word48) (r : Response), (r.status ≠ .ok → y = x ∧ r.data = 0) ∧
    ∀ s : State, s.state = x → m s = .next (answered s y r)

theorem answersFrom_of_complete {x y : Word48} {d : Word64} {m : State → Host.Outcome State Fault Refusal}
    (h : ∀ s : State, s.state = x → m s = .next (s.complete y d)) : AnswersFrom x m :=
  ⟨y, ⟨.ok, d⟩, fun hne => absurd rfl hne, fun s hs => by rw [h s hs, complete_eq_answered]⟩

theorem answersFrom_of_takeError {x : Word48} {st : Status} {m : State → Host.Outcome State Fault Refusal}
    (h : ∀ s : State, m s = .next (s.takeError st)) : AnswersFrom x m := by
  refine ⟨x, ⟨st, 0⟩, fun _ => ⟨rfl, rfl⟩, ?_⟩
  rintro s rfl
  rw [h, takeError_eq_answered]

theorem answersFrom_exec_next (x : Word48) (n : BitVec 6) : AnswersFrom x (exec (.next n)) := by
  by_cases hdom : bitsInDomain (bitsOperand n) = true
  · apply answersFrom_of_complete
    intro s hs
    rw [exec_next_of_inDomain hdom, hs]
  · exact answersFrom_of_takeError (exec_next_of_not_inDomain hdom)

/-- `NEXTINT` answers on each of R52's three paths; on the third because its loop ends (R57). -/
theorem answersFrom_exec_nextint (x : Word48) (b : Word32) : AnswersFrom x (exec (.nextint b)) := by
  by_cases hdom : boundInDomain (boundOperand b) = true
  · cases hpow : isPow2OrZero (boundOperand b) with
    | true =>
      apply answersFrom_of_complete
      intro s hs
      rw [exec_nextint_of_isPow2OrZero hdom hpow, hs]
    | false =>
      have hpos := bound_pos_of_not_isPow2OrZero hdom hpow
      obtain ⟨d, hd⟩ := exists_nextintLoop_eq_some hpos b.toInt_lt x
      apply answersFrom_of_complete
      rintro s rfl
      exact exec_nextint_of_nextintLoop hdom hpow hd
  · exact answersFrom_of_takeError (exec_nextint_of_not_inDomain hdom)

/-- R29: every command answers, and `state` alone decides how. -/
theorem answersFrom_exec (x : Word48) (i : Instr) : AnswersFrom x (exec i) := by
  by_cases hseed : isSeeding i = true
  · obtain ⟨v, hv⟩ := exists_exec_eq_complete_of_isSeeding hseed
    exact answersFrom_of_complete fun s _ => hv s
  · cases i with
    | next n => exact answersFrom_exec_next x n
    | nextint b => exact answersFrom_exec_nextint x b
    | nextlong =>
      apply answersFrom_of_complete
      intro s hs
      rw [exec_nextlong, hs]
    | nextfloat =>
      apply answersFrom_of_complete
      intro s hs
      rw [exec_nextfloat, hs]
    | setseed _ | setregion _ _ _ _ | setcarver _ _ _ => exact absurd rfl hseed

theorem runCommand_of_decode {p : Command} {i : Instr} (h : decode p = .ok i) : runCommand p = exec i := by
  funext s
  simp only [runCommand, h]

/-- R40: a word that selects no row. -/
theorem runCommand_of_decode_error {p : Command} {e : Reject} (h : decode p = .error e) (s : State) :
    runCommand p s = .next (s.takeError .illegalCommand) := by
  simp only [runCommand, h]

/-- R29, R35: every accepted command answers, its word legal or not, and `state` alone decides how. -/
theorem answersFrom_runCommand (x : Word48) (p : Command) : AnswersFrom x (runCommand p) := by
  cases h : decode p with
  | ok i => exact runCommand_of_decode h ▸ answersFrom_exec x i
  | error e => exact answersFrom_of_takeError (runCommand_of_decode_error h)

end Sys2Proof.Machine
end

section
/-! SUPPORT. What one step can do (spec/20_memory.md R29; spec/70_reset_and_hazards.md R81, R89, R90), and what the
response port's invariant asks of each. -/

namespace Sys2Proof.Machine

open Sys2Proof.Claims

theorem withHost_self (s : State) : s.withHost s.host = s := rfl

theorem step_of_nil {s : State} (h : s.host = []) : step s = .next s.idleCycle := by
  rw [step, h]

theorem step_of_command {s : State} {p : Command} {rest : List HostEvent} (h : s.host = .command p :: rest) :
    step s = runCommand p (s.withHost rest) := by
  rw [step, h]

/-- One step in all its cases, each with the host's list moved on: a cycle without a command, a reset, or the one answer
to a command. It never stops (R66, R88, R90). -/
theorem step_cases (s : State) :
    step s = .next (s.withHost s.host.tail).idleCycle ∨
    step s = .next (s.withHost s.host.tail).assertReset ∨
    ∃ (p : Command) (y : Word48) (r : Response), s.host = .command p :: s.host.tail ∧
      step s = .next (answered (s.withHost s.host.tail) y r) ∧ (r.status ≠ .ok → y = s.state ∧ r.data = 0) := by
  cases h : s.host with
  | nil => exact .inl (by rw [step_of_nil h, List.tail_nil, ← h, withHost_self])
  | cons e rest =>
    cases e with
    | idle => exact .inl (by rw [step, h]; rfl)
    | reset | resetDuring _ => exact .inr (.inl (by rw [step, h]; rfl))
    | command p =>
      obtain ⟨y, r, herr, hrun⟩ := answersFrom_runCommand s.state p
      exact .inr (.inr ⟨p, y, r, rfl, (step_of_command h).trans (hrun _ rfl), herr⟩)

theorem exists_step_eq_next (s : State) : ∃ t, step s = .next t := by
  obtain h | h | ⟨_, _, _, -, h, -⟩ := step_cases s
  all_goals exact ⟨_, h⟩

theorem runSteps_succ_of_step {s t : State} (h : step s = .next t) (k : Nat) :
    runSteps (k + 1) s = runSteps k t := by
  rw [runSteps, h]

theorem inv_iff (s : State) :
    s.inv = true ↔ s.responses.all Response.wf = true ∧ (s.rsp = none ∨ s.rsp = s.responses.getLast?) := by
  simp only [State.inv, Bool.and_eq_true, Bool.or_eq_true, Option.isNone_iff_eq_none, beq_iff_eq]

theorem inv_idleCycle {s : State} (h : s.inv = true) : s.idleCycle.inv = true :=
  (inv_iff _).2 ⟨((inv_iff s).1 h).1, .inl rfl⟩

theorem inv_withHost {s : State} (h : s.inv = true) (rest : List HostEvent) : (s.withHost rest).inv = true := h

theorem inv_assertReset (s : State) : s.assertReset.inv = true := rfl

theorem Response.wf_of_data_eq_zero {r : Response} (h : r.status ≠ .ok → r.data = 0) : r.wf = true := by
  by_cases hok : r.status = .ok
  · rw [Response.wf, hok]; rfl
  · rw [Response.wf, h hok, beq_self_eq_true, Bool.or_true]

/-- An answer that obeys R42 joins the record as its last entry, so the invariant is kept. -/
theorem inv_answered {s : State} (h : s.inv = true) (y : Word48) {r : Response} (hr : r.wf = true) :
    (answered s y r).inv = true := by
  obtain ⟨hall, -⟩ := (inv_iff s).1 h
  refine (inv_iff _).2 ⟨?_, .inr ?_⟩
  · simp [answered, hall, hr]
  · simp [answered]

end Sys2Proof.Machine

namespace Sys2Proof.Proofs

open Sys2Proof.Machine Sys2Proof.Claims

/-- Settles O42: an idle cycle and a reset take the response away, and an answer is the record's new last entry and obeys
R42. -/
theorem stepKeepsPortInvariant : Obligations.StepKeepsPortInvariant := by
  unfold Obligations.StepKeepsPortInvariant
  intro s t hinv hstep
  have hmoved := inv_withHost hinv s.host.tail
  obtain h | h | ⟨-, y, r, -, h, herr⟩ := step_cases s <;> cases h.symm.trans hstep
  · exact inv_idleCycle hmoved
  · exact inv_assertReset _
  · exact inv_answered hmoved y (Response.wf_of_data_eq_zero fun hne => (herr hne).2)

/-- Settles O44: what `answersFrom_runCommand` gives for each content of `state` and each command is the function of the
fold; the induction is over the command list. -/
theorem runIsAFoldOverTheCommands : Obligations.RunIsAFoldOverTheCommands := by
  unfold Obligations.RunIsAFoldOverTheCommands
  choose newState response _ hrun using answersFrom_runCommand
  refine ⟨fun x p => (newState x p, response x p), fun cmds => ?_⟩
  induction cmds with
  | nil => exact fun s hhost => ⟨s, rfl, hhost, rfl, rfl⟩
  | cons p ps ih =>
    intro s hhost
    have hstep := (step_of_command hhost).trans (hrun s.state p (s.withHost (ps.map .command)) rfl)
    obtain ⟨t, hsteps, hempty, hfresh, hfold⟩ :=
      ih (answered (s.withHost (ps.map .command)) (newState s.state p) (response s.state p)) rfl
    exact ⟨t, (runSteps_succ_of_step hstep _).trans hsteps, hempty, hfresh, hfold⟩

/-- Settles O25: the state a command leads to is the one `answersFrom_exec` names. -/
theorem execFrame : Obligations.ExecFrame := by
  unfold Obligations.ExecFrame
  intro i s t hexec
  obtain ⟨y, r, herr, hall⟩ := answersFrom_exec s.state i
  cases (hall s rfl).symm.trans hexec
  exact ⟨y, r, rfl, herr⟩

/-- Settles O37. -/
theorem stepRunsTheDecodedCommand : Obligations.StepRunsTheDecodedCommand := by
  unfold Obligations.StepRunsTheDecodedCommand
  intro s p rest i hhost hdecode
  rw [step_of_command hhost, runCommand_of_decode hdecode]
  rfl

end Sys2Proof.Proofs
end

section
/-! SUPPORT. One step of a system of several blocks (spec/20_memory.md R34, spec/60_exceptions.md R78). -/

namespace Sys2Proof.Machine

theorem systemStep_of_step {sys : List State} {k : Fin sys.length} {t : State} (h : step sys[k] = .next t) :
    systemStep sys k = .next (sys.set k t) := by
  rw [systemStep, h]

/-- A step of block `k` after block `j` was replaced is still `k`'s own step. -/
theorem systemStep_set_of_ne {sys : List State} {j k : Nat} (hjk : j ≠ k) (u : State) {t : State}
    {hk : k < sys.length} (h : step sys[k] = .next t) (k' : Fin (sys.set j u).length) (hk' : k'.1 = k) :
    systemStep (sys.set j u) k' = .next ((sys.set j u).set k t) := by
  subst hk'
  refine systemStep_of_step ?_
  rw [Fin.getElem_fin, List.getElem_set_ne hjk]
  exact h

end Sys2Proof.Machine

namespace Sys2Proof.Proofs

open Sys2Proof.Machine

/-- Settles O47: a block's step writes that block's own place of the list, and writes to different places commute. -/
theorem instancesAreIndependent : Obligations.InstancesAreIndependent := by
  unfold Obligations.InstancesAreIndependent
  intro sys j k hjk
  have hne : j.1 ≠ k.1 := fun h => hjk (Fin.ext h)
  obtain ⟨tj, hj⟩ := exists_step_eq_next sys[j]
  obtain ⟨tk, hk⟩ := exists_step_eq_next sys[k]
  refine ⟨tj, tk, sys.set j tj, sys.set k tk, hj, hk, systemStep_of_step hj, systemStep_of_step hk, ?_, ?_, ?_⟩
  · exact fun n hn => List.getElem?_set_ne hn.symm
  · exact List.getElem?_set_self j.2
  · intro k' j' hk' hj'
    rw [systemStep_set_of_ne hne tj hk k' hk', systemStep_set_of_ne hne.symm tk hj j' hj', List.set_comm _ _ hne]

end Sys2Proof.Proofs
end

section
/-! SUPPORT. Words, rows and decoding (spec/30_encoding.md R36 to R40): the fields of a word in numbers, the row a word
selects, and what decoding answers in each case. -/

namespace Sys2Proof

open Sys2Proof.Claims

/-! The fields of a word. -/

/-- `OPC` by division (R36). -/
@[simp] theorem opc_toNat (w : Word16) : (opc w).toNat = w.toNat / 256 := by
  rw [opc, BitVec.extractLsb'_toNat, Nat.shiftRight_eq_div_pow]
  omega

/-- `RSV` by division (R36). -/
@[simp] theorem rsv_toNat (w : Word16) : (rsv w).toNat = w.toNat / 64 % 4 := by
  rw [rsv, BitVec.extractLsb'_toNat, Nat.shiftRight_eq_div_pow]

/-- `IMM6` by division (R36). -/
@[simp] theorem imm6_toNat (w : Word16) : (imm6 w).toNat = w.toNat % 64 := by
  rw [imm6, BitVec.extractLsb'_toNat, Nat.shiftRight_zero]

/-- The mask of every row but `NEXT`'s keeps the whole word (R39). -/
@[simp] theorem and_fullMask (w : Word16) : w &&& 0xFFFF#16 = w := BitVec.and_allOnes

/-- `NEXT`'s mask leaves `IMM6` free (R37, R39). -/
theorem and_nextMask_eq_iff (w : Word16) : w &&& 0xFFC0#16 = 0x0200#16 ↔ w.toNat / 64 = 8 := by
  have hmask : w &&& 0xFFC0#16 = w >>> 6 <<< 6 := (BitVec.shiftLeft_ushiftRight (x := w) (n := 6)).symm
  rw [hmask, ← BitVec.toNat_inj, BitVec.toNat_shiftLeft, BitVec.toNat_ushiftRight, Nat.shiftRight_eq_div_pow,
    Nat.shiftLeft_eq, BitVec.toNat_ofNat]
  omega

/-- What `NEXT`'s mask keeps of a word, and the immediate it leaves free, make up the word (R37). -/
theorem and_nextMask_or_imm6 (w : Word16) : w &&& 0xFFC0#16 ||| (imm6 w).setWidth 16 = w := by
  have himm : (imm6 w).setWidth 16 = w &&& 0x003F#16 := by
    apply BitVec.eq_of_toNat_eq
    rw [BitVec.toNat_setWidth, imm6_toNat, BitVec.toNat_and]
    exact (Nat.mod_eq_of_lt (by omega)).trans (Nat.and_two_pow_sub_one_eq_mod _ 6).symm
  calc w &&& 0xFFC0#16 ||| (imm6 w).setWidth 16
      = w &&& (0xFFC0#16 ||| 0x003F#16) := by rw [himm, BitVec.and_or_distrib_left]
    _ = w := and_fullMask w

/-! The row a word selects. -/

/-- Every row fixes the whole of `OPC`: a word that selects it has the `OPC` of its match (R39). -/
theorem opc_eq_of_selects {r : Row} {w : Word16} (hr : r ∈ opcodeRows) (h : r.selects w = true) :
    opc w = opc r.pattern := by
  have hmask : ∀ r ∈ opcodeRows, opc r.mask = BitVec.allOnes 8 := by decide
  rw [← eq_of_beq h, opc, opc, BitVec.extractLsb'_and, ← opc, ← opc, hmask r hr, BitVec.and_allOnes]

/-- No two rows share an `OPC` (R39). -/
theorem row_eq_of_opc_pattern_eq :
    ∀ r ∈ opcodeRows, ∀ q ∈ opcodeRows, opc r.pattern = opc q.pattern → r = q := by decide

/-- R40: the words that select no row. -/
theorem selectRow_eq_none_iff (w : Word16) : selectRow w = none ↔ WordIllegal w.toNat := by
  have hrows : selectRow w = none ↔ ∀ r ∈ opcodeRows, ¬ w &&& r.mask = r.pattern := by
    simp only [selectRow, List.find?_eq_none, Row.selects, beq_iff_eq]
  rw [hrows]
  simp only [opcodeRows, List.forall_mem_cons, List.not_mem_nil, false_implies, implies_true, and_true, and_fullMask,
    and_nextMask_eq_iff]
  simp only [← BitVec.toNat_inj, BitVec.toNat_ofNat, WordIllegal]
  omega

/-! Decoding. -/

theorem decode_of_selectRow {p : Command} {r : Row} (h : selectRow p.word = some r) :
    decode p = .ok (takeOperands r.name p) := by
  simp only [decode, h]

theorem decode_of_selectRow_none {p : Command} (h : selectRow p.word = none) :
    decode p = .error (rejectReason p.word) := by
  simp only [decode, h]

theorem selectRow_of_decode {p : Command} {i : Instr} (h : decode p = .ok i) :
    ∃ r, selectRow p.word = some r ∧ i = takeOperands r.name p := by
  cases hrow : selectRow p.word with
  | none => cases (decode_of_selectRow_none hrow).symm.trans h
  | some r => exact ⟨r, rfl, Except.ok.inj (h.symm.trans (decode_of_selectRow hrow))⟩

/-- R40: decoding fails on the illegal words alone, for the reason the word gives. -/
theorem decode_eq_error_iff (p : Command) (e : Reject) :
    decode p = .error e ↔ WordIllegal p.word.toNat ∧ rejectReason p.word = e := by
  rw [← selectRow_eq_none_iff]
  cases hrow : selectRow p.word with
  | none => simp [decode_of_selectRow_none hrow]
  | some r => simp [decode_of_selectRow hrow]

@[simp] theorem takeOperands_mnemonic (m : Mnemonic) (p : Command) : (takeOperands m p).mnemonic = m := by
  cases m <;> rfl

/-- R38: what decodes is its own row's command with the ports' operands. -/
theorem eq_takeOperands_of_decode {p : Command} {i : Instr} (h : decode p = .ok i) :
    i = takeOperands i.mnemonic p := by
  obtain ⟨r, -, rfl⟩ := selectRow_of_decode h
  rw [takeOperands_mnemonic]

/-- The encoder gives back the word the row was selected by (R36, R39). -/
theorem encode_takeOperands_word {p : Command} {r : Row} (h : selectRow p.word = some r) :
    (encode (takeOperands r.name p)).word = p.word := by
  obtain ⟨hmem, hword⟩ := selectRow_some h
  simp only [opcodeRows, List.mem_cons, List.not_mem_nil, or_false] at hmem
  obtain rfl | rfl | rfl | rfl | rfl | rfl | rfl := hmem
  case inr.inl =>
    calc 0x0200#16 ||| (imm6 p.word).setWidth 16
        = p.word &&& 0xFFC0#16 ||| (imm6 p.word).setWidth 16 := by rw [hword]
      _ = p.word := and_nextMask_or_imm6 p.word
  all_goals exact hword.symm.trans (and_fullMask p.word)

theorem encode_word_of_decode {p : Command} {i : Instr} (h : decode p = .ok i) : (encode i).word = p.word := by
  obtain ⟨r, hrow, rfl⟩ := selectRow_of_decode h
  exact encode_takeOperands_word hrow

theorem decode_encode_of_selectRow {i : Instr} {r : Row} (hrow : selectRow (encode i).word = some r)
    (hops : takeOperands r.name (encode i) = i) : decode (encode i) = .ok i := by
  rw [decode_of_selectRow hrow, hops]

/-- R37, R39: decoding undoes encoding. -/
theorem decode_encode (i : Instr) : decode (encode i) = .ok i := by
  cases i with
  | setseed a => exact decode_encode_of_selectRow selectRow_setseed rfl
  | next n =>
    obtain ⟨hrow, himm⟩ := selectRow_next n
    exact decode_encode_of_selectRow hrow (congrArg Instr.next himm)
  | nextint b => exact decode_encode_of_selectRow selectRow_nextint rfl
  | nextlong => exact decode_encode_of_selectRow selectRow_nextlong rfl
  | nextfloat => exact decode_encode_of_selectRow selectRow_nextfloat rfl
  | setregion a b c d => exact decode_encode_of_selectRow selectRow_setregion rfl
  | setcarver a b c => exact decode_encode_of_selectRow selectRow_setcarver rfl

/-- Two commands with one word decode alike when the operands the word's row takes from them are the same (R38). -/
theorem decode_congr {p q : Command} (hw : p.word = q.word)
    (hops : ∀ i, decode p = .ok i → takeOperands i.mnemonic p = takeOperands i.mnemonic q) :
    decode p = decode q := by
  cases hrow : selectRow p.word with
  | none => rw [decode_of_selectRow_none hrow, decode_of_selectRow_none (hw ▸ hrow), hw]
  | some r =>
    have hp := decode_of_selectRow hrow
    have hsame := hops _ hp
    rw [takeOperands_mnemonic] at hsame
    rw [hp, decode_of_selectRow (hw ▸ hrow), hsame]

/-! The reason an illegal word is rejected for. -/

/-- R40: a word's clause, its fields by division. -/
theorem rejectReason_eq (w : Word16) : rejectReason w =
    if w.toNat / 256 = 0 ∨ 8 ≤ w.toNat / 256 then .unassignedOpcode
    else if w.toNat / 64 % 4 ≠ 0 then .reservedBitsSet
    else .immediateNotZero := by
  have hopc : opc w = 0 ↔ w.toNat / 256 = 0 := by rw [← BitVec.toNat_inj, opc_toNat]; rfl
  have hrsv : rsv w = 0 ↔ w.toNat / 64 % 4 = 0 := by rw [← BitVec.toNat_inj, rsv_toNat]; rfl
  simp only [rejectReason, hopc, hrsv, opc_toNat, ne_eq]

/-- The words each clause of R40 names, a word that falls under several counted to the first. -/
def Reject.clause : Reject → Nat → Prop
  | .unassignedOpcode, w => w / 256 = 0 ∨ 8 ≤ w / 256
  | .reservedBitsSet, w => 1 ≤ w / 256 ∧ w / 256 ≤ 7 ∧ w / 64 % 4 ≠ 0
  | .immediateNotZero, w => 1 ≤ w / 256 ∧ w / 256 ≤ 7 ∧ w / 64 % 4 = 0 ∧ w / 256 ≠ 2 ∧ w % 64 ≠ 0

/-- R40: a word is rejected for the clause it falls under. -/
theorem decode_eq_error_iff_clause (p : Command) (e : Reject) :
    decode p = .error e ↔ e.clause p.word.toNat := by
  rw [decode_eq_error_iff, rejectReason_eq, WordIllegal]
  split_ifs with hopc hrsv
  all_goals cases e <;> simp only [Reject.clause, reduceCtorEq, and_true, and_false, false_iff] <;> omega

end Sys2Proof

namespace Sys2Proof.Machine

/-- R35: the ports enter a step through the decoder alone. -/
theorem runCommand_congr {p q : Command} (h : decode p = decode q) : runCommand p = runCommand q := by
  funext s
  simp only [runCommand, h]

theorem rspStatus_of_rsp {s : State} {r : Response} (h : s.rsp = some r) : s.rspStatus = r.status.code := by
  simp only [State.rspStatus, h]

theorem rspData_of_rsp {s : State} {r : Response} (h : s.rsp = some r) : s.rspData = r.data := by
  simp only [State.rspData, h]

theorem Response.data_eq_zero_of_wf {r : Response} (h : r.wf = true) (hne : r.status ≠ .ok) : r.data = 0 := by
  simpa [Response.wf, hne] using h

/-- R42: under the port's invariant the response present is one of the run's, so it obeys R42. -/
theorem wf_of_rsp_eq_some {s : State} {r : Response} (hinv : s.inv = true) (hr : s.rsp = some r) : r.wf = true := by
  obtain ⟨hall, hnone | hlast⟩ := (inv_iff s).1 hinv
  · cases hr.symm.trans hnone
  · exact List.all_eq_true.1 hall r (List.mem_of_getLast? (hlast.symm.trans hr))

/-- R67: only `OK` has the code 0. -/
theorem Status.code_eq_zero_iff (st : Status) : st.code = 0b00 ↔ st = .ok := by
  cases st <;> decide

end Sys2Proof.Machine

namespace Sys2Proof.Proofs

open Sys2Proof.Machine Sys2Proof.Claims

/-- Settles O26: `decode_encode`, and the port zeros constructor by constructor. -/
theorem decodeEncode : Obligations.DecodeEncode := by
  unfold Obligations.DecodeEncode
  intro i
  refine ⟨decode_encode i, ?_⟩
  cases i <;> simp [encode, Instr.mnemonic]

/-- Settles O27: the word by `encode_word_of_decode`, each operand by reading off `takeOperands` at the command's own
row. -/
theorem encodeDecode : Obligations.EncodeDecode := by
  unfold Obligations.EncodeDecode
  intro p i h
  have hops := eq_takeOperands_of_decode h
  refine ⟨encode_word_of_decode h, ?_, ?_, ?_, ?_, ?_⟩
  · rintro a rfl
    exact Instr.setseed.inj hops
  · rintro n rfl
    rw [Instr.next.inj hops, imm6_toNat]
  · rintro b rfl
    exact Instr.nextint.inj hops
  · rintro a b c d rfl
    exact Instr.setregion.inj hops
  · rintro a b c rfl
    exact Instr.setcarver.inj hops

/-- Settles O28: a word has one `OPC`, and a row is known by it. -/
theorem opcodeRowsDoNotOverlap : Obligations.OpcodeRowsDoNotOverlap := by
  unfold Obligations.OpcodeRowsDoNotOverlap
  intro w r q hr hq hrw hqw
  exact row_eq_of_opc_pattern_eq r hr q hq ((opc_eq_of_selects hr hrw).symm.trans (opc_eq_of_selects hq hqw))

/-- Settles O29: failing at all by `decode_eq_error_iff`, the reason by `decode_eq_error_iff_clause`. -/
theorem decodeRejectsExactlyIllegalWords : Obligations.DecodeRejectsExactlyIllegalWords := by
  unfold Obligations.DecodeRejectsExactlyIllegalWords
  intro p
  refine ⟨?_, decode_eq_error_iff_clause p _, decode_eq_error_iff_clause p _, decode_eq_error_iff_clause p _⟩
  simp only [decode_eq_error_iff, exists_and_left, exists_eq', and_true]

/-- Settles O30: the legal words are their rows' and the rejected ones R40's, each for its reason. -/
theorem sampleWordsDecode : Obligations.SampleWordsDecode := by
  unfold Obligations.SampleWordsDecode
  refine ⟨decode_encode (.setseed 42), decode_encode (.next 31), decode_encode (.nextint 10), decode_encode .nextlong,
    decode_encode .nextfloat, decode_encode (.setregion 1 2 3 4),
    decode_of_selectRow (p := ⟨0x0700, 1, 2, 3, 4⟩) selectRow_setcarver, ?_, ?_, ?_⟩
  · exact (decode_eq_error_iff _ _).2 (by decide)
  · exact (decode_eq_error_iff _ _).2 (by decide)
  · exact (decode_eq_error_iff _ _).2 (by decide)

/-- Settles O31: the two commands decode alike, since the row of a word takes from the ports only what R38 gives that
word. -/
theorem unusedPortsAreIgnored : Obligations.UnusedPortsAreIgnored := by
  unfold Obligations.UnusedPortsAreIgnored
  intro s p q rest hw ha hb hc hd
  have hdecode : decode p = decode q := by
    refine decode_congr hw fun i hi => ?_
    have hword := (encode_word_of_decode hi).symm
    cases i with
    | setseed _ => exact congrArg Instr.setseed (ha (.inl hword))
    | next _ => exact congrArg (fun w => Instr.next (imm6 w)) hw
    | nextint _ => exact congrArg Instr.nextint (hb (.inl hword))
    | nextlong | nextfloat => rfl
    | setregion _ _ _ _ =>
      simp only [Instr.mnemonic, takeOperands, ha (.inr (.inl hword)), hb (.inr (.inl hword)), hc (.inl hword), hd hword]
    | setcarver _ _ _ =>
      simp only [Instr.mnemonic, takeOperands, ha (.inr (.inr hword)), hb (.inr (.inr hword)), hc (.inr hword)]
  rw [step_of_command rfl, step_of_command rfl, runCommand_congr hdecode]
  rfl

/-- Settles O32: an illegal word fails to decode, and the step is the error response. -/
theorem illegalWordIsAnswered : Obligations.IllegalWordIsAnswered := by
  unfold Obligations.IllegalWordIsAnswered
  intro s p rest hhost hillegal
  have herror := (decode_eq_error_iff p _).2 ⟨hillegal, rfl⟩
  rw [step_of_command hhost, runCommand_of_decode_error herror]
  rfl

/-- Settles O36: the response on the port is the record's last one, so it obeys R42. -/
theorem responsePortCodes : Obligations.ResponsePortCodes := by
  unfold Obligations.ResponsePortCodes
  intro s hinv hvalid
  obtain ⟨r, hr⟩ := Option.isSome_iff_exists.1 hvalid
  rw [rspStatus_of_rsp hr, rspData_of_rsp hr]
  refine ⟨?_, ?_, fun hcode => ?_, ?_⟩
  · cases r.status <;> decide
  · cases r.status <;> decide
  · exact Response.data_eq_zero_of_wf (wf_of_rsp_eq_some hinv hr) fun hok => hcode ((Status.code_eq_zero_iff _).2 hok)
  · intro r' hr'
    cases hr.symm.trans hr'
    exact ⟨by cases r.status <;> rfl, rfl⟩

/-- Settles O41: nothing has been answered at reset. -/
theorem portInvariantAfterReset : Obligations.PortInvariantAfterReset :=
  (inv_iff _).2 ⟨rfl, .inl rfl⟩

end Sys2Proof.Proofs
end

section
/-! SUPPORT. The step function, its inverse, the scramble and the draw in fixed-width arithmetic (spec/40_core_lcg.md
R46 to R51), and the two commands made of them. -/

namespace Sys2Proof.Machine

open Sys2Proof.Claims

/-! The step and its inverse. -/

/-- R46: the step in 48-bit wrapping arithmetic. -/
theorem lcgStep_eq_step48 (s : Word48) : lcgStep s = step48 s := by
  apply BitVec.eq_of_toNat_eq
  rw [lcgStep_toNat, step48, BitVec.toNat_add, BitVec.toNat_mul, BitVec.toNat_ofNat, BitVec.toNat_ofNat]
  omega

/-- R51: the inverse step in 48-bit wrapping arithmetic. -/
theorem lcgUnstep_eq (t : Word48) : lcgUnstep t = 246154705703781#48 * (t - 11#48) := by
  have hsub : wrap 48 ((t.toNat : Int) - (Config.add : Int)) = t - 11#48 := by
    rw [sub_eq_add_neg, wrap_add, sub_eq_add_neg, wrap, BitVec.ofInt_natCast, BitVec.ofNat_toNat, BitVec.setWidth_eq]
    rfl
  rw [lcgUnstep, wrap_mul, hsub]
  rfl

/-- R51: `MULT_INV` undoes `MULT` modulo `2^48`. -/
theorem mult_mul_multInv : 25214903917#48 * 246154705703781#48 = 1#48 := by decide

theorem lcgUnstep_lcgStep (s : Word48) : lcgUnstep (lcgStep s) = s := by
  rw [lcgUnstep_eq, lcgStep_eq_step48, step48, BitVec.add_sub_cancel, ← BitVec.mul_assoc,
    BitVec.mul_comm 246154705703781#48, mult_mul_multInv, BitVec.one_mul]

theorem lcgStep_lcgUnstep (t : Word48) : lcgStep (lcgUnstep t) = t := by
  rw [lcgStep_eq_step48, step48, lcgUnstep_eq, ← BitVec.mul_assoc, mult_mul_multInv, BitVec.one_mul,
    BitVec.sub_add_cancel]

/-! The scramble. -/

/-- R47: bits 63:48 do not enter the scramble. -/
theorem scramble_congr {v w : Word64} (h : v.setWidth 48 = w.setWidth 48) : scramble v = scramble w := by
  rw [scramble_eq, scramble_eq, h]

/-! The draw. -/

/-- R49: a draw is the new state shifted down and cut to 32 bits, read as a signed number. -/
theorem next_fst (bits : Nat) (st : Word48) :
    (next bits st).1 = ((lcgStep st >>> (48 - bits)).setWidth 32).toInt := by
  have hdraw : (next bits st).1 = (wrap 32 (((lcgStep st).toNat >>> (48 - bits) : Nat) : Int)).toInt := rfl
  rw [hdraw, wrap, BitVec.ofInt_natCast, ← BitVec.toNat_ushiftRight, BitVec.ofNat_toNat]

/-- Narrowing to signed 32 bits does not change a draw. -/
theorem s32_next_fst (bits : Nat) (st : Word48) : s32 (next bits st).1 = (next bits st).1 := by
  rw [next_fst, s32, wrap_toInt]

/-- R43, R49: what the port shows of a draw. -/
theorem result32_next (bits : Nat) (st : Word48) :
    result32 (next bits st).1 = ((lcgStep st >>> (48 - bits)).setWidth 32).signExtend 64 := by
  rw [next_fst, result32, wrap_toInt, sext64]

/-- The top `bits` bits of a 48-bit value are below `2^bits`. -/
theorem toNat_shiftRight_lt {bits : Nat} (h : bits ≤ 48) (x : Word48) : x.toNat >>> (48 - bits) < 2 ^ bits := by
  have hlt := BitVec.toNat_ushiftRight_lt x (48 - bits) (Nat.sub_le _ _)
  rwa [Nat.sub_sub_self h, BitVec.toNat_ushiftRight] at hlt

theorem extractLsb'_top_toNat {bits : Nat} (h : bits ≤ 48) (x : Word48) :
    (x.extractLsb' (48 - bits) bits).toNat = x.toNat >>> (48 - bits) := by
  rw [BitVec.extractLsb'_toNat, Nat.mod_eq_of_lt (toNat_shiftRight_lt h x)]

/-- R50: a shorter draw is the front of a longer one. -/
theorem next_fst_prefix {b1 b2 : Nat} (h12 : b1 ≤ b2) (h2 : b2 ≤ 31) (st : Word48) :
    (next b1 st).1 = (next b2 st).1 >>> (b2 - b1) := by
  have hshift : 48 - b1 = (48 - b2) + (b2 - b1) := by omega
  rw [next_fst_of_le_31 (h12.trans h2), next_fst_of_le_31 h2, hshift, Nat.shiftRight_add]
  rfl

/-- R54: scaling a 31-bit draw by `2^k` leaves its top `k` bits above bit 31. -/
theorem two_pow_mul_next_31_shiftRight {k : Nat} (h : k ≤ 31) (st : Word48) :
    (2 ^ k * (next 31 st).1) >>> (31 : Nat) = (next k st).1 := by
  have hpow : ((2 ^ 31 : Nat) : Int) = 2 ^ k * ((2 ^ (31 - k) : Nat) : Int) := by
    exact_mod_cast (pow_mul_pow_sub 2 h).symm
  rw [next_fst_prefix h le_rfl, Int.shiftRight_eq_div_pow, Int.shiftRight_eq_div_pow, hpow,
    Int.mul_ediv_mul_of_pos _ _ (by positivity)]

/-! The two commands. -/

theorem bitsInDomain_iff (bits : Nat) : bitsInDomain bits = true ↔ 1 ≤ bits ∧ bits ≤ 32 := by
  rw [bitsInDomain, Bool.and_eq_true, decide_eq_true_iff, decide_eq_true_iff]

/-- R54: `NEXTINT 2^bits` is `NEXT bits`. -/
theorem exec_nextint_eq_exec_next {b : Word32} {n : BitVec 6} (hb : boundOperand b = 2 ^ bitsOperand n)
    (hpow : isPow2OrZero (boundOperand b) = true) (h1 : 1 ≤ bitsOperand n) (h31 : bitsOperand n ≤ 31) (s : State) :
    exec (.nextint b) s = exec (.next n) s := by
  have hdom : boundInDomain (boundOperand b) = true := decide_eq_true (hb ▸ by positivity)
  have hbits : bitsInDomain (bitsOperand n) = true := (bitsInDomain_iff _).2 ⟨h1, by omega⟩
  rw [exec_nextint_of_isPow2OrZero hdom hpow, exec_next_of_inDomain hbits, hb, two_pow_mul_next_31_shiftRight h31,
    s32_next_fst, next_snd, next_snd]

end Sys2Proof.Machine

namespace Sys2Proof.Proofs

open Sys2Proof.Machine Sys2Proof.Claims

/-- Settles O1: the number is `lcgStep_toNat`, the vector `lcgStep_eq_step48`. -/
theorem lcgStepIsTheCongruence : Obligations.LcgStepIsTheCongruence := by
  unfold Obligations.LcgStepIsTheCongruence
  exact fun s => ⟨lcgStep_toNat s, lcgStep_eq_step48 s⟩

/-- Settles O2: cutting to 48 bits commutes with wrapping sum and product, since `2^48` divides `2^64`. -/
theorem lcgStepInSixtyFourBits : Obligations.LcgStepInSixtyFourBits := by
  unfold Obligations.LcgStepInSixtyFourBits
  intro s
  rw [lcgStep_eq_step48, BitVec.setWidth_add _ _ (by decide), BitVec.setWidth_mul _ _ (by decide),
    BitVec.setWidth_setWidth_of_le _ (by decide), BitVec.setWidth_eq]
  rfl

/-- Settles O3: the first form is `scramble_eq`, and cutting the second to 48 bits gives it. -/
theorem scrambleRule : Obligations.ScrambleRule := by
  unfold Obligations.ScrambleRule
  intro v
  have hcut : ((v ^^^ 0x5DEECE66D#64) &&& 0xFFFFFFFFFFFF#64).setWidth 48 = v.setWidth 48 ^^^ 0x5DEECE66D#48 := by
    rw [BitVec.setWidth_and, BitVec.setWidth_xor]
    exact BitVec.and_allOnes
  exact ⟨scramble_eq v, (scramble_eq v).trans hcut.symm⟩

/-- Settles O4: all three are read off `scramble_eq`, the second because the constant's bits from 35 up are zero. -/
theorem scrambleLaws : Obligations.ScrambleLaws := by
  unfold Obligations.ScrambleLaws
  refine ⟨fun v w => scramble_congr, fun v => ?_, fun u => ?_⟩
  · have hkeep : (v.setWidth 48).extractLsb' 35 13 = v.extractLsb' 35 13 :=
      BitVec.extractLsb'_setWidth_of_le (by decide)
    have hzero : (0x5DEECE66D#48).extractLsb' 35 13 = 0#13 := by decide
    rw [scramble_eq, BitVec.extractLsb'_xor, hkeep, hzero, BitVec.xor_zero]
  · have hback (x : Word48) : (x.setWidth 64).setWidth 48 = x := by
      rw [BitVec.setWidth_setWidth_of_le _ (by decide), BitVec.setWidth_eq]
    rw [scramble_eq, scramble_eq, hback, hback, BitVec.xor_assoc, BitVec.xor_self, BitVec.xor_zero]

/-- Settles O5: the value of a draw is the top bits of `lcgStep s` as a number, so shorter draws are shifted longer
ones; `NEXT 2` is `NEXTINT 4` by `exec_nextint_eq_exec_next`. -/
theorem nextValueLaws : Obligations.NextValueLaws := by
  unfold Obligations.NextValueLaws
  refine ⟨fun bits s _ h31 => ?_, next_fst_32, fun b1 b2 s _ h12 h31 => ⟨rfl, next_fst_prefix h12 h31 s⟩,
    fun _ => rfl, fun s => ?_⟩
  · have h48 : bits ≤ 48 := by omega
    rw [next_fst_of_le_31 h31, extractLsb'_top_toNat h48]
    exact ⟨rfl, Int.natCast_nonneg _, by exact_mod_cast toNat_shiftRight_lt h48 (lcgStep s)⟩
  · exact (exec_nextint_eq_exec_next (by decide) (by decide) (by decide) (by decide) s).symm

/-- Settles O6: over 48-bit vectors both compositions cancel by `MULT * MULT_INV = 1`. -/
theorem lcgStepInverse : Obligations.LcgStepInverse := by
  unfold Obligations.LcgStepInverse
  refine ⟨by decide, fun t => ?_, lcgUnstep_lcgStep, lcgStep_lcgUnstep⟩
  rw [lcgUnstep, wrap, BitVec.toNat_ofInt, Int.toNat_of_nonneg (Int.emod_nonneg _ (by decide))]
  rfl

/-- Settles O11: the row of word 0x0100 takes `cmd_a`, and the scramble sees bits 47:0 alone. -/
theorem setseedLoadsTheScrambledSeed : Obligations.SetseedLoadsTheScrambledSeed := by
  unfold Obligations.SetseedLoadsTheScrambledSeed
  refine ⟨fun a d b c => ?_, fun a s => ?_, fun a a' s h => ?_⟩
  · exact decode_of_selectRow (p := ⟨0x0100, a, b, c, d⟩) selectRow_setseed
  · rw [exec_setseed, complete_eq_answered, scramble_eq, seed48]
  · rw [exec_setseed, exec_setseed, scramble_congr h]

/-- Settles O13: inside the domain by `result32_next`, outside by the error answer. -/
theorem nextDrawsTheTopBits : Obligations.NextDrawsTheTopBits := by
  unfold Obligations.NextDrawsTheTopBits
  refine ⟨fun n a d b c => ?_, fun n s h1 h32 => ?_, fun n s hout => ?_⟩
  · obtain ⟨hrow, himm⟩ := selectRow_next n
    exact (decode_of_selectRow (p := ⟨_, a, b, c, d⟩) hrow).trans
      (congrArg (fun m => Except.ok (Instr.next m)) himm)
  · rw [exec_next_of_inDomain ((bitsInDomain_iff _).2 ⟨h1, h32⟩), complete_eq_answered, next_snd, result32_next,
      lcgStep_eq_step48, bitsOperand]
  · have hdom : ¬ bitsInDomain (bitsOperand n) = true := by
      rw [bitsInDomain_iff, bitsOperand]
      omega
    rw [exec_next_of_not_inDomain hdom, takeError_eq_answered]

end Sys2Proof.Proofs
end

section
/-! SUPPORT. The two tests of `NEXTINT` in numbers (spec/41_derived_draws.md R53, R55): when the bitwise power-of-two test
holds, and which draws the wrapped acceptance test takes. -/

namespace Sys2Proof.Machine

open Sys2Proof.Claims

/-! The power-of-two test. -/

/-- R53: the two bitwise forms of the test are one, since `-x` is the complement of `x - 1`. -/
theorem and_neg_eq_self_iff {w : Nat} (x : BitVec w) : x &&& -x = x ↔ x &&& (x - 1#w) = 0#w := by
  rw [← BitVec.not_neg]
  constructor
  · intro h
    calc x &&& ~~~(-x) = (x &&& -x) &&& ~~~(-x) := by rw [h]
      _ = x &&& 0#w := by rw [BitVec.and_assoc, BitVec.and_not_self]; rfl
      _ = 0#w := BitVec.and_zero
  · intro h
    calc x &&& -x = (x &&& -x) ||| (x &&& ~~~(-x)) := by rw [h, BitVec.or_zero]
      _ = x := by rw [← BitVec.and_or_distrib_left, BitVec.or_not_self, BitVec.and_allOnes]

/-- R53: the model's test on 32-bit vectors. -/
theorem isPow2OrZero_natCast_iff (n : Nat) :
    isPow2OrZero n = true ↔ BitVec.ofNat 32 n &&& -BitVec.ofNat 32 n = BitVec.ofNat 32 n := by
  rw [isPow2OrZero, beq_iff_eq, wrap, wrap, BitVec.ofInt_neg, BitVec.ofInt_natCast]

theorem ofNat_and_pred_eq_zero_iff {w n : Nat} (hpos : n ≠ 0) (hlt : n < 2 ^ w) :
    BitVec.ofNat w n &&& (BitVec.ofNat w n - 1#w) = 0#w ↔ n &&& (n - 1) = 0 := by
  have hpred : BitVec.ofNat w n - 1#w = BitVec.ofNat w (n - 1) :=
    BitVec.ofNat_sub_ofNat_of_le n 1 (by omega) (by omega)
  rw [hpred, ← BitVec.ofNat_and, ← BitVec.toNat_inj, BitVec.toNat_ofNat, BitVec.toNat_ofNat, Nat.zero_mod,
    Nat.mod_eq_of_lt (Nat.and_lt_two_pow _ (by omega))]

/-- R53: below `2^31` the test holds for 0 and the powers of two alone. -/
theorem isPow2OrZero_iff {n : Nat} (hlt : n < 2 ^ 31) :
    isPow2OrZero n = true ↔ n = 0 ∨ ∃ k ≤ 30, n = 2 ^ k := by
  by_cases hzero : n = 0
  · subst hzero
    exact iff_of_true (by decide) (.inl rfl)
  · rw [isPow2OrZero_natCast_iff, and_neg_eq_self_iff, ofNat_and_pred_eq_zero_iff hzero (by omega),
      Nat.and_sub_one_eq_zero_iff_isPowerOfTwo hzero]
    constructor
    · rintro ⟨k, rfl⟩
      exact .inr ⟨k, Nat.le_of_lt_succ ((Nat.pow_lt_pow_iff_right (by decide)).1 hlt), rfl⟩
    · rintro (h | ⟨k, -, h⟩)
      · exact absurd h hzero
      · exact ⟨k, h⟩

/-! The acceptance test. -/

/-- A number below `2^32` is not negative as a signed 32-bit integer when it is below `2^31`. -/
theorem s32_natCast_nonneg_iff {n : Nat} (h : n < 2 ^ 32) : 0 ≤ s32 n ↔ n < 2 ^ 31 := by
  rw [s32, wrap, BitVec.ofInt_natCast, BitVec.toInt_pos_iff, BitVec.toNat_ofNat, Nat.mod_eq_of_lt h]
  omega

/-- R55: the exact sum the test narrows is one less than the next multiple of the bound. -/
theorem sub_mod_add_pred (bits : Nat) {bound : Nat} (hpos : 0 < bound) :
    bits - bits % bound + (bound - 1) + 1 = (bits / bound + 1) * bound := by
  rw [Nat.succ_mul, Nat.div_mul_self_eq_mod_sub_self]
  omega

/-- R55: narrowing does not lose the sum's high bit. -/
theorem sub_mod_add_pred_lt {bits bound : Nat} (hlt : bound < 2 ^ 31) (hbits : bits < 2 ^ 31) :
    bits - bits % bound + (bound - 1) < 2 ^ 32 := by
  omega

/-- R55: the acceptance test in exact integers. -/
theorem accepts_iff_mul_le {bits bound : Nat} (hpos : 0 < bound) (hlt : bound < 2 ^ 31) (hbits : bits < 2 ^ 31) :
    accepts bits (bits % bound : Nat) bound = true ↔ (bits / bound + 1) * bound ≤ 2 ^ 31 := by
  have hle := Nat.mod_le bits bound
  have hcast : (bits : Int) - (bits % bound : Nat) + (bound - 1) = (bits - bits % bound + (bound - 1) : Nat) := by
    omega
  rw [accepts, decide_eq_true_iff, hcast, s32_natCast_nonneg_iff (sub_mod_add_pred_lt hlt hbits),
    ← sub_mod_add_pred bits hpos, Nat.succ_le_iff]

/-- R55: the accepted draws are those below the largest multiple of the bound in `[0, 2^31]`. -/
theorem mul_le_iff_accepted {bits bound : Nat} (hpos : 0 < bound) :
    (bits / bound + 1) * bound ≤ 2 ^ 31 ↔ Accepted bits bound := by
  rw [← Nat.le_div_iff_mul_le hpos, Nat.succ_le_iff, Accepted, Nat.div_lt_iff_lt_mul hpos]

/-- R55: fewer than half of the draws are rejected. -/
theorem two_mul_mod_lt {a n : Nat} (hpos : 0 < n) (hle : n ≤ a) : 2 * (a % n) < a := by
  have hmod := Nat.mod_lt a hpos
  have hdiv := Nat.div_add_mod' a n
  have hone : 1 * n ≤ a / n * n := Nat.mul_le_mul_right n ((Nat.one_le_div_iff hpos).2 hle)
  omega

end Sys2Proof.Machine

namespace Sys2Proof.Proofs

open Sys2Proof.Machine Sys2Proof.Claims

/-- Settles O8. -/
theorem powerOfTwoTest : Obligations.PowerOfTwoTest := by
  unfold Obligations.PowerOfTwoTest
  intro bound hlt
  have hneg := isPow2OrZero_natCast_iff bound
  exact ⟨isPow2OrZero_iff hlt, hneg, hneg.trans (and_neg_eq_self_iff _)⟩

/-- Settles O9. -/
theorem acceptanceTestInExactIntegers : Obligations.AcceptanceTestInExactIntegers := by
  unfold Obligations.AcceptanceTestInExactIntegers
  intro bits bound hpos hlt hbits
  have hexact := accepts_iff_mul_le hpos hlt hbits
  refine ⟨hexact, hexact.trans (mul_le_iff_accepted hpos), sub_mod_add_pred_lt hlt hbits,
    Nat.mod_eq_sub_div_mul.symm, Nat.mod_lt _ hpos, two_mul_mod_lt hpos hlt.le, Nat.mod_lt _ hpos⟩

end Sys2Proof.Proofs
end

section
/-! SUPPORT. `NEXTINT` in its three paths (spec/41_derived_draws.md R52 to R57), each with the draw as the top bits of the
new state, and the range of the answer. -/

namespace Sys2Proof.Machine

open Sys2Proof.Claims

/-! The bound and the draw as numbers. -/

theorem lcgStep_iterate_eq_step48_iterate (n : Nat) (x : Word48) : lcgStep^[n] x = step48^[n] x :=
  congrArg (fun f => f^[n] x) (funext lcgStep_eq_step48)

theorem toNat_lt_of_msb_eq_false {b : Word32} (h : b.msb = false) : b.toNat < 2 ^ 31 := by
  have := BitVec.msb_eq_false_iff_two_mul_lt.1 h
  omega

theorem boundOperand_of_msb_eq_false {b : Word32} (h : b.msb = false) : boundOperand b = b.toNat :=
  BitVec.toInt_eq_toNat_of_msb h

/-- R52, R68: the sign bit decides the domain. -/
theorem boundInDomain_boundOperand (b : Word32) : boundInDomain (boundOperand b) = !b.msb := by
  rw [boundInDomain, boundOperand, BitVec.msb_eq_toInt, ← decide_not, decide_eq_decide, Int.not_lt]

theorem boundInDomain_of_msb_eq_false {b : Word32} (h : b.msb = false) : boundInDomain (boundOperand b) = true := by
  rw [boundInDomain_boundOperand, h, Bool.not_false]

theorem toNat_pos_of_ne_zero {b : Word32} (h : b ≠ 0) : 0 < b.toNat :=
  Nat.pos_of_ne_zero fun hzero => h (BitVec.toNat_inj.1 hzero)

theorem msb_eq_false_of_eq_zero_or_isPow2 {b : Word32} (h : b = 0 ∨ IsPow2 b) : b.msb = false := by
  obtain rfl | ⟨k, hk, hb⟩ := h
  · rfl
  · have hpow : 2 ^ k ≤ 2 ^ 30 := Nat.pow_le_pow_right (by decide) hk
    rw [BitVec.msb_eq_false_iff_two_mul_lt]
    omega

/-- R53 for a bound on its port. -/
theorem isPow2OrZero_boundOperand_iff {b : Word32} (h : b.msb = false) :
    isPow2OrZero (boundOperand b) = true ↔ b = 0 ∨ IsPow2 b := by
  rw [boundOperand_of_msb_eq_false h, isPow2OrZero_iff (toNat_lt_of_msb_eq_false h), ← BitVec.toNat_inj]
  rfl

theorem top31_lt (x : Word48) : top31 x < 2 ^ 31 :=
  Nat.div_lt_of_lt_mul x.isLt

/-- R50: a 31-bit draw. -/
theorem next_31_fst (st : Word48) : (next 31 st).1 = top31 (lcgStep st) := by
  rw [next_fst_of_le_31 le_rfl, Nat.shiftRight_eq_div_pow, top31]

/-- R52: the draw after `n` steps. -/
theorem next_31_fst_iterate (n : Nat) (st : Word48) :
    (next 31 (lcgStep^[n] st)).1 = top31 (step48^[n + 1] st) := by
  rw [next_31_fst, ← Function.iterate_succ_apply' lcgStep, lcgStep_iterate_eq_step48_iterate]

/-! The shift path. -/

/-- A 31-bit draw scaled to `[0, m)`, and to 0 for `m = 0`. -/
theorem mul_div_two_pow_lt {m t : Nat} (hpos : 0 < m) (ht : t < 2 ^ 31) : m * t / 2 ^ 31 < m :=
  Nat.div_lt_of_lt_mul (by rw [Nat.mul_comm (2 ^ 31)]; exact Nat.mul_lt_mul_of_pos_left ht hpos)

theorem mul_div_two_pow_le {m t : Nat} (ht : t < 2 ^ 31) : m * t / 2 ^ 31 ≤ m :=
  Nat.div_le_of_le_mul (by rw [Nat.mul_comm (2 ^ 31)]; exact Nat.mul_le_mul_left m ht.le)

theorem s32_natCast {n : Nat} (h : n < 2 ^ 31) : s32 n = n := by
  rw [s32, wrap, BitVec.toInt_ofInt]
  exact Int.bmod_eq_of_le (by omega) (by omega)

/-- R52: zero or a power of two takes one step and scales the draw. -/
theorem exec_nextint_of_eq_zero_or_isPow2 {b : Word32} (h : b = 0 ∨ IsPow2 b) (s : State) :
    exec (.nextint b) s = .next (answered s (step48 s.state)
      ⟨.ok, BitVec.ofNat 64 (b.toNat * top31 (step48 s.state) / 2 ^ 31)⟩) := by
  have hmsb := msb_eq_false_of_eq_zero_or_isPow2 h
  have hlt : b.toNat * top31 (step48 s.state) / 2 ^ 31 < 2 ^ 31 :=
    (mul_div_two_pow_le (top31_lt _)).trans_lt (toNat_lt_of_msb_eq_false hmsb)
  have hscaled : (boundOperand b * (next 31 s.state).1) >>> (31 : Nat) =
      (b.toNat * top31 (step48 s.state) / 2 ^ 31 : Nat) := by
    rw [boundOperand_of_msb_eq_false hmsb, next_31_fst, lcgStep_eq_step48, Int.shiftRight_eq_div_pow]
    norm_cast
  rw [exec_nextint_of_isPow2OrZero (boundInDomain_of_msb_eq_false hmsb)
      ((isPow2OrZero_boundOperand_iff hmsb).2 h), hscaled, s32_natCast hlt,
    result32_ofNat hlt, next_snd, lcgStep_eq_step48, complete_eq_answered]

/-- R54, R56: the bounds 0 and 1 leave no bit of the draw. -/
theorem exec_nextint_of_toNat_le_one {b : Word32} (h : b = 0 ∨ IsPow2 b) (hb : b.toNat ≤ 1) (s : State) :
    exec (.nextint b) s = .next (answered s (step48 s.state) ⟨.ok, 0⟩) := by
  have hsmall : b.toNat * top31 (step48 s.state) < 2 ^ 31 :=
    (Nat.mul_le_mul_right _ hb).trans_lt (by rw [Nat.one_mul]; exact top31_lt _)
  rw [exec_nextint_of_eq_zero_or_isPow2 h, Nat.div_eq_of_lt hsmall]
  rfl

/-- R50, R54: what the port shows of a draw of at most 31 bits. -/
theorem result32_next_of_le_31 {bits : Nat} (h : bits ≤ 31) (st : Word48) :
    result32 (next bits st).1 = ((lcgStep st).extractLsb' (48 - bits) bits).setWidth 64 := by
  have h48 : bits ≤ 48 := by omega
  have hlt : (lcgStep st).toNat >>> (48 - bits) < 2 ^ 31 :=
    (toNat_shiftRight_lt h48 _).trans_le (Nat.pow_le_pow_right (by decide) h)
  rw [next_fst_of_le_31 h, result32_ofNat hlt, ← extractLsb'_top_toNat h48, BitVec.ofNat_toNat]

theorem toNat_two_pow {k : Nat} (h : k ≤ 30) : (BitVec.ofNat 32 (2 ^ k)).toNat = 2 ^ k := by
  have hpow : 2 ^ k ≤ 2 ^ 30 := Nat.pow_le_pow_right (by decide) h
  rw [BitVec.toNat_ofNat, Nat.mod_eq_of_lt (by omega)]

theorem bitsOperand_ofNat {k : Nat} (h : k < 64) : bitsOperand (BitVec.ofNat 6 k) = k := Nat.mod_eq_of_lt h

/-- R54: `NEXTINT 2^k` is `NEXT k`. -/
theorem exec_nextint_two_pow {k : Nat} (h1 : 1 ≤ k) (h30 : k ≤ 30) (s : State) :
    exec (.nextint (BitVec.ofNat 32 (2 ^ k))) s = exec (.next (BitVec.ofNat 6 k)) s := by
  have hpow : IsPow2 (BitVec.ofNat 32 (2 ^ k)) := ⟨k, h30, toNat_two_pow h30⟩
  have hmsb := msb_eq_false_of_eq_zero_or_isPow2 (.inr hpow)
  have hbits := bitsOperand_ofNat (show k < 64 by omega)
  refine exec_nextint_eq_exec_next ?_ ((isPow2OrZero_boundOperand_iff hmsb).2 (.inr hpow)) ?_ ?_ s
  · rw [boundOperand_of_msb_eq_false hmsb, toNat_two_pow h30, hbits, Nat.cast_pow, Nat.cast_ofNat]
  · omega
  · omega

/-! The modulo path. -/

/-- R52: any other bound in the domain, once the rejection loop has accepted a draw. -/
theorem exec_nextint_of_nextintLoop_natCast {b : Word32} {s : State} {n : Nat} {x : Word48} (hmsb : b.msb = false)
    (hpow : ¬ (b = 0 ∨ IsPow2 b)) (hn : n < 2 ^ 31)
    (hloop : nextintLoop (boundOperand b) Config.nextintFuel s.state = some ((n : Int), x)) :
    exec (.nextint b) s = .next (answered s x ⟨.ok, BitVec.ofNat 64 n⟩) := by
  rw [← isPow2OrZero_boundOperand_iff hmsb, Bool.not_eq_true] at hpow
  rw [exec_nextint_of_nextintLoop (boundInDomain_of_msb_eq_false hmsb) hpow hloop, result32_ofNat hn, complete_eq_answered]

/-- R52: the model's acceptance test is the one in 32-bit wrapping arithmetic. -/
theorem accepts_iff_accepted32 (bits : Nat) {b : Word32} (h : b.msb = false) :
    accepts bits ((bits : Int) % boundOperand b) (boundOperand b) = true ↔ Accepted32 bits b := by
  have hval : (bits : Int) % boundOperand b = (bits % b.toNat : Nat) := by
    rw [boundOperand_of_msb_eq_false h, Int.natCast_emod]
  have hsum : wrap 32 ((bits : Int) - (bits % b.toNat : Nat) + (boundOperand b - 1)) =
      BitVec.ofNat 32 bits - BitVec.ofNat 32 (bits % b.toNat) + (b - 1) := by
    simp only [sub_eq_add_neg, wrap_add, boundOperand, wrap_toInt]
    simp only [wrap, BitVec.ofInt_neg, BitVec.ofInt_natCast]
    rfl
  rw [accepts, decide_eq_true_iff, s32, hval, hsum, Accepted32, BitVec.msb_eq_toInt, decide_eq_false_iff_not,
    Int.not_lt]

/-- R52: a draw is accepted by the loop exactly when the 32-bit test accepts the top bits of its new state. -/
theorem accepts_next_31_iff (n : Nat) (st : Word48) {b : Word32} (h : b.msb = false) :
    accepts (next 31 (lcgStep^[n] st)).1 ((next 31 (lcgStep^[n] st)).1 % boundOperand b) (boundOperand b) = true ↔
      Accepted32 (top31 (step48^[n + 1] st)) b := by
  rw [next_31_fst_iterate, accepts_iff_accepted32 _ h]

/-- R52, R57: what the rejection loop answers when the draw after `n` rejected ones is accepted. -/
theorem nextintLoop_eq_some_of_accepted32 {b : Word32} {st : Word48} {n : Nat} (hmsb : b.msb = false)
    (hn : n < Config.nextintFuel)
    (hrej : ∀ j < n, ¬ Accepted32 (top31 (step48^[j + 1] st)) b)
    (hacc : Accepted32 (top31 (step48^[n + 1] st)) b) :
    nextintLoop (boundOperand b) Config.nextintFuel st =
      some (((top31 (step48^[n + 1] st) % b.toNat : Nat) : Int), step48^[n + 1] st) := by
  rw [nextintLoop_first_accepted hn
      (fun j hj => Bool.eq_false_iff.2 ((accepts_next_31_iff j st hmsb).not.2 (hrej j hj)))
      ((accepts_next_31_iff n st hmsb).2 hacc),
    next_31_fst_iterate, lcgStep_iterate_eq_step48_iterate, boundOperand_of_msb_eq_false hmsb, Int.natCast_emod]

/-- R52, R57: for a positive bound the loop answers a number below it, from every state. -/
theorem exists_nextintLoop_eq_natCast_lt {b : Word32} (hmsb : b.msb = false) (hne : b ≠ 0) (st : Word48) :
    ∃ (n : Nat) (x : Word48), n < b.toNat ∧
      nextintLoop (boundOperand b) Config.nextintFuel st = some ((n : Int), x) := by
  have hbound := boundOperand_of_msb_eq_false hmsb
  have hpos := toNat_pos_of_ne_zero hne
  have hposInt : 0 < boundOperand b := by omega
  obtain ⟨⟨r, x⟩, hloop⟩ := exists_nextintLoop_eq_some hposInt b.toInt_lt st
  obtain ⟨bits, rfl : r = bits % boundOperand b⟩ := nextintLoop_some hloop
  have hnonneg := Int.emod_nonneg bits hposInt.ne'
  have hlt := Int.emod_lt_of_pos bits hposInt
  exact ⟨(bits % boundOperand b).toNat, x, by omega, by rw [hloop, Int.toNat_of_nonneg hnonneg]⟩

/-! All bounds. -/

/-- R52, R57: every bound in the domain is answered, with a number below it or with 0. -/
theorem exists_exec_nextint_eq_answered {b : Word32} (hmsb : b.msb = false) (s : State) :
    ∃ (x : Word48) (n : Nat), exec (.nextint b) s = .next (answered s x ⟨.ok, BitVec.ofNat 64 n⟩) ∧
      n ≤ b.toNat ∧ (b ≠ 0 → n < b.toNat) := by
  by_cases hpow : b = 0 ∨ IsPow2 b
  · refine ⟨_, _, exec_nextint_of_eq_zero_or_isPow2 hpow s, mul_div_two_pow_le (top31_lt _), fun hne => ?_⟩
    exact mul_div_two_pow_lt (toNat_pos_of_ne_zero hne) (top31_lt _)
  · obtain ⟨n, x, hn, hloop⟩ := exists_nextintLoop_eq_natCast_lt hmsb (fun h => hpow (.inl h)) s.state
    have hsmall := hn.trans (toNat_lt_of_msb_eq_false hmsb)
    exact ⟨x, n, exec_nextint_of_nextintLoop_natCast hmsb hpow hsmall hloop, hn.le, fun _ => hn⟩

theorem toInt_ofNat_64 {n : Nat} (h : n < 2 ^ 63) : (BitVec.ofNat 64 n).toInt = n := by
  rw [BitVec.toInt_ofNat']
  exact Int.bmod_eq_of_le (by omega) (by omega)

end Sys2Proof.Machine

namespace Sys2Proof.Proofs

open Sys2Proof.Machine Sys2Proof.Claims

/-- Settles O7: from the state after the first step every value is reached in fewer than `2^48` further ones. -/
theorem lcgHasFullPeriod : Obligations.LcgHasFullPeriod := by
  unfold Obligations.LcgHasFullPeriod
  intro s t
  obtain ⟨k, hk, hkt⟩ := exists_lcgStep_iterate_eq (lcgStep s) t
  exact ⟨k + 1, Nat.le_add_left 1 k, hk, hkt⟩

/-- Settles O17: `exists_exec_nextint_eq_answered`, read as signed numbers. -/
theorem nextintAlwaysAnswersInRange : Obligations.NextintAlwaysAnswersInRange := by
  unfold Obligations.NextintAlwaysAnswersInRange
  intro b s hmsb
  obtain ⟨x, n, hexec, hle, hlt⟩ := exists_exec_nextint_eq_answered hmsb s
  have hb := toNat_lt_of_msb_eq_false hmsb
  refine ⟨x, _, hexec, ?_⟩
  rw [toInt_ofNat_64 (by omega), BitVec.toInt_eq_toNat_of_msb hmsb]
  exact ⟨Int.natCast_nonneg n, Int.ofNat_le.2 hle, fun hne => Int.ofNat_lt.2 (hlt hne)⟩

/-- Settles O14: one lemma for each path. -/
theorem nextintFollowsItsThreePaths : Obligations.NextintFollowsItsThreePaths := by
  unfold Obligations.NextintFollowsItsThreePaths
  refine ⟨fun b c a d => ?_, fun b s hmsb => ?_, fun b s => (exec_nextint_of_eq_zero_or_isPow2 · s),
    fun b s n hmsb hne hpow hn hrej hacc => ?_⟩
  · exact decode_of_selectRow (p := ⟨0x0300, a, b, c, d⟩) selectRow_nextint
  · have hdom : ¬ boundInDomain (boundOperand b) = true := by simp [boundInDomain_boundOperand, hmsb]
    rw [exec_nextint_of_not_inDomain hdom, takeError_eq_answered]
  · exact exec_nextint_of_nextintLoop_natCast hmsb (not_or.2 ⟨hne, hpow⟩) ((Nat.mod_le _ _).trans_lt (top31_lt _))
      (nextintLoop_eq_some_of_accepted32 hmsb hn hrej hacc)

/-- Settles O16: the shift path at the bound 0. -/
theorem nextintZeroTakesOneStep : Obligations.NextintZeroTakesOneStep := by
  unfold Obligations.NextintZeroTakesOneStep
  exact exec_nextint_of_toNat_le_one (.inl rfl) (by decide)

/-- Settles O15: `exec_nextint_two_pow`, with the draw's top bits read off `NEXT k`; the bound 1 leaves no bit. -/
theorem nextintPowerOfTwoIsNext : Obligations.NextintPowerOfTwoIsNext := by
  unfold Obligations.NextintPowerOfTwoIsNext
  refine ⟨fun k s h1 h30 => ?_, exec_nextint_of_toNat_le_one (.inr ⟨0, by decide, by decide⟩) (by decide)⟩
  have hsame := exec_nextint_two_pow h1 h30 s
  have hbits := bitsOperand_ofNat (show k < 64 by omega)
  refine ⟨hsame, ?_⟩
  rw [hsame, exec_next_of_inDomain ((bitsInDomain_iff _).2 (by omega)), hbits, result32_next_of_le_31 (by omega),
    next_snd, complete_eq_answered, lcgStep_eq_step48]

end Sys2Proof.Proofs
end

section
/-! SUPPORT. `NEXTLONG` in bit vectors (spec/41_derived_draws.md R58). -/

namespace Sys2Proof.Machine

open Sys2Proof.Claims

/-- A sign-extended word moved to the high half: the sign bits fall out. -/
theorem signExtend_shiftLeft_32 (v : Word32) : v.signExtend 64 <<< 32 = v.setWidth 64 <<< 32 := by
  apply BitVec.eq_of_toNat_eq
  rw [BitVec.toNat_shiftLeft, BitVec.toNat_shiftLeft, BitVec.toNat_signExtend, BitVec.toNat_setWidth]
  split <;> omega

/-- R58: the two draws joined, with the exact sum narrowed to 64 bits. -/
theorem result64_nextLong (st : Word48) : result64 (nextLong st).1 = long64 st := by
  have hsum : (nextLong st).1 = s64 (2 ^ 32 * (next 32 st).1 + (next 32 (next 32 st).2).1) := rfl
  have hhigh : wrap 64 (2 ^ 32) = BitVec.twoPow 64 32 := by decide
  rw [hsum, result64, s64, wrap_toInt, wrap_add, wrap_mul, next_fst_32, next_fst_32, next_snd,
    wrap_toInt_eq_signExtend, wrap_toInt_eq_signExtend, hhigh, BitVec.twoPow_mul_eq_shiftLeft, signExtend_shiftLeft_32,
    lcgStep_eq_step48, lcgStep_eq_step48]
  rfl

theorem nextLong_snd (st : Word48) : (nextLong st).2 = step48 (step48 st) := by
  rw [← lcgStep_eq_step48, ← lcgStep_eq_step48]
  rfl

/-- R58 in numbers: a negative low word borrows one from the high word. -/
theorem toNat_joined (hi lo : Word32) : (hi.setWidth 64 <<< 32 + lo.signExtend 64).toNat =
    (hi - (if lo.msb then 1 else 0)).toNat * 2 ^ 32 + lo.toNat := by
  rw [BitVec.toNat_add, BitVec.toNat_shiftLeft, BitVec.toNat_setWidth, BitVec.toNat_signExtend, BitVec.toNat_setWidth,
    Nat.shiftLeft_eq, BitVec.toNat_sub]
  cases lo.msb <;> simp <;> omega

theorem extractLsb'_low_joined (hi lo : Word32) :
    (hi.setWidth 64 <<< 32 + lo.signExtend 64).extractLsb' 0 32 = lo := by
  apply BitVec.eq_of_toNat_eq
  rw [BitVec.extractLsb'_toNat, toNat_joined, Nat.shiftRight_zero]
  omega

theorem extractLsb'_high_joined (hi lo : Word32) :
    (hi.setWidth 64 <<< 32 + lo.signExtend 64).extractLsb' 32 32 = hi - (if lo.msb then 1 else 0) := by
  apply BitVec.eq_of_toNat_eq
  rw [BitVec.extractLsb'_toNat, toNat_joined, Nat.shiftRight_eq_div_pow]
  omega

end Sys2Proof.Machine

namespace Sys2Proof.Proofs

open Sys2Proof.Machine Sys2Proof.Claims

/-- Settles O18: the response by `result64_nextLong`, its words by the borrow of `toNat_joined`. -/
theorem nextlongJoinsTwoDraws : Obligations.NextlongJoinsTwoDraws := by
  unfold Obligations.NextlongJoinsTwoDraws
  refine ⟨fun a d b c => ?_, fun s => ?_, fun s => ⟨extractLsb'_low_joined _ _, extractLsb'_high_joined _ _⟩⟩
  · exact decode_of_selectRow (p := ⟨0x0400, a, b, c, d⟩) selectRow_nextlong
  · rw [exec_nextlong, complete_eq_answered, result64_nextLong, nextLong_snd]

end Sys2Proof.Proofs
end

section
/-! SUPPORT. The binary32 patterns of `NEXTFLOAT` (spec/41_derived_draws.md R59, R60): the fields of `f32bits k`, the number
they stand for, and their order. -/

namespace Sys2Proof.Machine

open Sys2Proof.Claims

/-- The fraction field of R60's pattern of `k`. -/
def f32frac (k : Nat) : Nat := (k - 2 ^ k.log2) * 2 ^ (23 - k.log2)

theorem log2_le_23 {k : Nat} (hpos : k ≠ 0) (hlt : k < 2 ^ 24) : k.log2 ≤ 23 :=
  Nat.le_of_lt_succ ((Nat.log2_lt hpos).2 hlt)

/-- R60: with its leading one, the fraction is `k` moved up to bit 23. -/
theorem two_pow_add_f32frac {k : Nat} (hpos : k ≠ 0) (hlt : k < 2 ^ 24) :
    2 ^ 23 + f32frac k = k * 2 ^ (23 - k.log2) := by
  have hlead : 2 ^ k.log2 * 2 ^ (23 - k.log2) = 2 ^ 23 := by rw [← pow_add, Nat.add_sub_cancel' (log2_le_23 hpos hlt)]
  rw [f32frac, ← hlead, ← Nat.add_mul, Nat.add_sub_cancel' (Nat.log2_self_le hpos)]

theorem f32frac_lt {k : Nat} (hpos : k ≠ 0) (hlt : k < 2 ^ 24) : f32frac k < 2 ^ 23 := by
  have htop : k * 2 ^ (23 - k.log2) < 2 ^ (k.log2 + 1) * 2 ^ (23 - k.log2) :=
    Nat.mul_lt_mul_of_pos_right Nat.lt_log2_self (by positivity)
  have hlog := log2_le_23 hpos hlt
  rw [← two_pow_add_f32frac hpos hlt, ← pow_add, (by omega : k.log2 + 1 + (23 - k.log2) = 24)] at htop
  omega

/-- R60: the pattern as a number, exponent field above fraction field. -/
theorem f32bits_toNat {k : Nat} (hpos : k ≠ 0) (hlt : k < 2 ^ 24) :
    (f32bits k).toNat = (k.log2 + 103) * 2 ^ 23 + f32frac k := by
  have hlog := log2_le_23 hpos hlt
  have hfrac := f32frac_lt hpos hlt
  have hpattern : f32bits k = BitVec.ofNat 32 ((k.log2 + 103) <<< 23 ||| f32frac k) := by
    rw [f32bits, if_neg hpos, f32frac, ← Nat.shiftLeft_eq]
  rw [hpattern, ← Nat.shiftLeft_add_eq_or_of_lt hfrac, Nat.shiftLeft_eq, BitVec.toNat_ofNat,
    Nat.mod_eq_of_lt (by omega)]

theorem f32bits_zero : f32bits 0 = 0 := rfl

/-- R60: the sign is 0. -/
theorem f32bits_msb {k : Nat} (hlt : k < 2 ^ 24) : (f32bits k).msb = false := by
  by_cases hpos : k = 0
  · rw [hpos, f32bits_zero]; rfl
  · have hlog := log2_le_23 hpos hlt
    have hfrac := f32frac_lt hpos hlt
    rw [BitVec.msb_eq_false_iff_two_mul_lt, f32bits_toNat hpos hlt]
    omega

/-- R60: the exponent field. -/
theorem f32bits_expo {k : Nat} (hpos : k ≠ 0) (hlt : k < 2 ^ 24) :
    ((f32bits k).extractLsb' 23 8).toNat = k.log2 + 103 := by
  have hlog := log2_le_23 hpos hlt
  have hfrac := f32frac_lt hpos hlt
  rw [BitVec.extractLsb'_toNat, f32bits_toNat hpos hlt, Nat.shiftRight_eq_div_pow]
  omega

/-- R60: the fraction field. -/
theorem f32bits_frac {k : Nat} (hpos : k ≠ 0) (hlt : k < 2 ^ 24) :
    ((f32bits k).extractLsb' 0 23).toNat = f32frac k := by
  have hfrac := f32frac_lt hpos hlt
  rw [BitVec.extractLsb'_toNat, f32bits_toNat hpos hlt, Nat.shiftRight_zero]
  omega

/-- R60: the number the fields stand for is `k / 2^24`, with nothing rounded. -/
theorem significand_mul_scale {k : Nat} (hpos : k ≠ 0) (hlt : k < 2 ^ 24) :
    (1 + (f32frac k : ℚ) / 2 ^ 23) * (2 : ℚ) ^ (((k.log2 + 103 : Nat) : Int) - 127) = (k : ℚ) / 2 ^ 24 := by
  have hlog := log2_le_23 hpos hlt
  have hfrac : (2 : ℚ) ^ 23 + f32frac k = k * 2 ^ (23 - k.log2) := by exact_mod_cast two_pow_add_f32frac hpos hlt
  have hscale : (2 : ℚ) ^ (23 - k.log2) * (2 : ℚ) ^ (((k.log2 + 103 : Nat) : Int) - 127) = 2⁻¹ := by
    rw [← zpow_natCast, ← zpow_add₀ (by norm_num), ← zpow_neg_one]
    congr 1
    omega
  have hone : 1 + (f32frac k : ℚ) / 2 ^ 23 = k * 2 ^ (23 - k.log2) / 2 ^ 23 := by
    rw [← hfrac, add_div, div_self (by positivity)]
  rw [hone, div_mul_eq_mul_div, mul_assoc, hscale]
  ring

/-- R60: the pattern stands for exactly `k / 2^24`. -/
theorem f32value_f32bits {k : Nat} (hlt : k < 2 ^ 24) : f32value (f32bits k) = (k : ℚ) / 2 ^ 24 := by
  by_cases hpos : k = 0
  · rw [hpos, f32bits_zero, Nat.cast_zero, zero_div]
    simp [f32value]
  · have hexpo : k.log2 + 103 ≠ 0 := by omega
    simp only [f32value, f32bits_msb hlt, f32bits_expo hpos hlt, f32bits_frac hpos hlt, if_neg hexpo,
      Bool.false_eq_true, if_false, one_mul, significand_mul_scale hpos hlt]

/-- R60: the patterns are ordered as the numbers. A larger exponent outweighs every fraction; within one exponent the
fraction decides. -/
theorem f32bits_lt {j k : Nat} (hjk : j < k) (hlt : k < 2 ^ 24) : (f32bits j).toNat < (f32bits k).toNat := by
  have hk : k ≠ 0 := by omega
  rw [f32bits_toNat hk hlt]
  by_cases hj : j = 0
  · have hzero : (f32bits j).toNat = 0 := by rw [hj]; rfl
    omega
  · have hjlt : j < 2 ^ 24 := hjk.trans hlt
    have hfrac := f32frac_lt hj hjlt
    rw [f32bits_toNat hj hjlt]
    have hlog : j.log2 ≤ k.log2 := (Nat.le_log2 hk).2 ((Nat.log2_self_le hj).trans hjk.le)
    obtain hexpo | hexpo := hlog.lt_or_eq
    · omega
    · have hmul : j * 2 ^ (23 - k.log2) < k * 2 ^ (23 - k.log2) := Nat.mul_lt_mul_of_pos_right hjk (by positivity)
      rw [← two_pow_add_f32frac hk hlt, ← hexpo, ← two_pow_add_f32frac hj hjlt] at hmul
      omega

/-- R59: a 24-bit draw. -/
theorem next_24_fst (st : Word48) : (next 24 st).1 = ((step48 st).toNat / 2 ^ 24 : Nat) := by
  rw [next_fst_of_le_31 (by decide), Nat.shiftRight_eq_div_pow, lcgStep_eq_step48]

/-- R59. -/
theorem exec_nextfloat_eq_answered (s : State) : exec .nextfloat s =
    .next (answered s (step48 s.state) ⟨.ok, (f32bits ((step48 s.state).toNat / 2 ^ 24)).setWidth 64⟩) := by
  rw [exec_nextfloat, next_snd, next_24_fst, Int.toNat_natCast, lcgStep_eq_step48, complete_eq_answered]
  rfl

end Sys2Proof.Machine

namespace Sys2Proof.Proofs

open Sys2Proof.Machine Sys2Proof.Claims

/-- Settles O10: the sign, the exponent field, the value and the order of the patterns each have their own lemma. -/
theorem binary32PatternIsExact : Obligations.Binary32PatternIsExact := by
  unfold Obligations.Binary32PatternIsExact
  refine ⟨f32bits_zero, fun k hlt => ⟨f32value_f32bits hlt, f32bits_msb hlt⟩, fun k hpos hlt => ?_,
    fun j k => f32bits_lt⟩
  have hk : k ≠ 0 := by omega
  have hlog := log2_le_23 hk hlt
  rw [f32bits_expo hk hlt]
  omega

/-- Settles O19: the draw is below `2^24`, so its pattern is exact and the quotient below 1. -/
theorem nextfloatReturnsTheExactQuotient : Obligations.NextfloatReturnsTheExactQuotient := by
  unfold Obligations.NextfloatReturnsTheExactQuotient
  refine ⟨fun a d b c => decode_of_selectRow (p := ⟨0x0500, a, b, c, d⟩) selectRow_nextfloat, fun s => ?_⟩
  have hlt : (step48 s.state).toNat / 2 ^ 24 < 2 ^ 24 := Nat.div_lt_of_lt_mul (step48 s.state).isLt
  have hvalue := f32value_f32bits hlt
  refine ⟨_, exec_nextfloat_eq_answered s, rfl, hvalue, ?_, ?_, f32bits_msb hlt⟩
  · rw [hvalue]
    positivity
  · rw [hvalue, div_lt_one (by positivity)]
    exact_mod_cast hlt

end Sys2Proof.Proofs
end

section
/-! SUPPORT. The two mixes of composite seeding in 64-bit wrapping arithmetic (spec/42_composite_seeding.md R62 to
R65). -/

namespace Sys2Proof.Machine

open Sys2Proof.Claims

/-- R9, R63: an exact integer wrapped to 64 bits keeps its residue modulo `2^48`. -/
theorem setWidth_wrap_64 (i : Int) : (wrap 64 i).setWidth 48 = wrap 48 i := by
  apply BitVec.eq_of_toNat_eq
  rw [BitVec.toNat_setWidth, wrap, wrap, BitVec.toNat_ofInt, BitVec.toNat_ofInt]
  omega

/-- R47: the scramble as the statements write it. -/
theorem scramble_eq_seed48 (v : Word64) : scramble v = seed48 v := scramble_eq v

/-- R9: bits 47:0 of a 64-bit sum depend on bits 47:0 of the summands alone. -/
theorem setWidth_add_congr {v v' w w' : Word64} (hv : v.setWidth 48 = v'.setWidth 48)
    (hw : w.setWidth 48 = w'.setWidth 48) : (v + w).setWidth 48 = (v' + w').setWidth 48 := by
  rw [BitVec.setWidth_add _ _ (by decide), BitVec.setWidth_add _ _ (by decide), hv, hw]

/-! `SETREGION`. -/

/-- R62: wrapping the exact sum once is summing in 64-bit wrapping arithmetic. -/
theorem regionMix_eq (a d : Word64) (b c : Word32) :
    regionMix a b c d = 341873128712#64 * b.signExtend 64 + 132897987541#64 * c.signExtend 64 + a + d := by
  have hmultA : wrap 64 Config.multA = 341873128712#64 := by decide
  have hmultB : wrap 64 Config.multB = 132897987541#64 := by decide
  simp only [regionMix, coordOperand, seedOperand, wrap_add, wrap_mul, wrap_toInt, wrap_toInt_eq_signExtend,
    hmultA, hmultB]

/-- R63: the mix modulo `2^48` is the exact sum modulo `2^48`. -/
theorem setWidth_regionMix (a d : Word64) (b c : Word32) : (regionMix a b c d).setWidth 48 =
    BitVec.ofInt 48 (341873128712 * b.toInt + 132897987541 * c.toInt + a.toInt + d.toInt) :=
  setWidth_wrap_64 _

/-- R63: bits 63:48 of the seed and of the salt do not reach bits 47:0 of the mix. -/
theorem setWidth_regionMix_congr {a a' d d' : Word64} (b c : Word32) (ha : a.setWidth 48 = a'.setWidth 48)
    (hd : d.setWidth 48 = d'.setWidth 48) : (regionMix a b c d).setWidth 48 = (regionMix a' b c d').setWidth 48 := by
  rw [regionMix_eq, regionMix_eq]
  exact setWidth_add_congr (setWidth_add_congr rfl ha) hd

/-- R63: the salt may be folded into the seed. -/
theorem regionMix_fold_salt (a d : Word64) (b c : Word32) : regionMix a b c d = regionMix (a + d) b c 0 := by
  rw [regionMix_eq, regionMix_eq, BitVec.add_assoc, add_zero]

/-! `SETCARVER`. -/

/-- R64: a coordinate times a long, wrapped, is the product of the sign-extended coordinate and `NEXTLONG`'s
response. -/
theorem wrap_coord_mul (v : Word32) (r : Int) : wrap 64 (coordOperand v * r) = v.signExtend 64 * result64 r := by
  rw [coordOperand, wrap_mul, wrap_toInt_eq_signExtend, result64]

/-- R64, R65: the mix from the responses of two `NEXTLONG`s after `SETSEED a`. -/
theorem carverMix_eq_result64 (a : Word64) (b c : Word32) : carverMix a b c =
    (b.signExtend 64 * result64 (nextLong (scramble a)).1) ^^^
      (c.signExtend 64 * result64 (nextLong (nextLong (scramble a)).2).1) ^^^ a := by
  simp only [carverMix, wrap_coord_mul]

/-- R64: the mix in fixed-width arithmetic, `la` the long after the scrambled seed and `lb` the long two steps on. -/
theorem carverMix_eq (a : Word64) (b c : Word32) : carverMix a b c =
    (b.signExtend 64 * long64 (seed48 a)) ^^^ (c.signExtend 64 * long64 (step48 (step48 (seed48 a)))) ^^^ a := by
  rw [carverMix_eq_result64, result64_nextLong, result64_nextLong, nextLong_snd, scramble_eq_seed48]

/-- R64: at the origin both longs are multiplied away. -/
theorem carverMix_zero_zero (a : Word64) : carverMix a 0 0 = a := by
  have hzero : (0 : Word32).signExtend 64 = 0#64 := by decide
  rw [carverMix_eq, hzero, BitVec.zero_mul, BitVec.zero_mul, BitVec.xor_self, BitVec.zero_xor]

/-- R64: bits 63:48 of the world seed reach neither the longs nor bits 47:0 of the mix. -/
theorem setWidth_carverMix_congr {a a' : Word64} (b c : Word32) (ha : a.setWidth 48 = a'.setWidth 48) :
    (carverMix a b c).setWidth 48 = (carverMix a' b c).setWidth 48 := by
  rw [carverMix_eq_result64, carverMix_eq_result64, scramble_congr ha, BitVec.setWidth_xor,
    BitVec.setWidth_xor (y := a'), ha]

end Sys2Proof.Machine

namespace Sys2Proof.Proofs

open Sys2Proof.Machine Sys2Proof.Claims

/-- Settles O20: the row of word 0x0600 takes all four ports, and the mix is `regionMix_eq`. -/
theorem setregionSeedsFromTheMix : Obligations.SetregionSeedsFromTheMix := by
  unfold Obligations.SetregionSeedsFromTheMix
  refine ⟨fun a d b c => ?_, fun a d b c s => ?_⟩
  · exact decode_of_selectRow (p := ⟨0x0600, a, b, c, d⟩) selectRow_setregion
  · rw [exec_setregion, complete_eq_answered, scramble_eq_seed48, regionMix_eq]

/-- Settles O21: the scramble sees only bits 47:0 of the mix, which are the exact sum modulo `2^48`. -/
theorem setregionLaws : Obligations.SetregionLaws := by
  unfold Obligations.SetregionLaws
  intro a d b c s
  refine ⟨⟨_, exec_setregion a b c d s, ?_⟩, fun a' d' ha hd => ?_, ?_, ?_⟩
  · rw [complete_state, scramble_eq, setWidth_regionMix]
  · rw [exec_setregion, exec_setregion, scramble_congr (setWidth_regionMix_congr b c ha hd)]
  · rw [exec_setregion, exec_setregion, regionMix_fold_salt]
  · rw [exec_setregion, exec_setseed, regionMix_eq]

/-- Settles O22: the row of word 0x0700 takes three ports; the state and its two corner cases are laws of the mix. -/
theorem setcarverReseedsFromTwoLongs : Obligations.SetcarverReseedsFromTwoLongs := by
  unfold Obligations.SetcarverReseedsFromTwoLongs
  refine ⟨fun a d b c => ?_, fun a b c s => ?_, fun a s => ?_, fun a a' b c s ha => ?_⟩
  · exact decode_of_selectRow (p := ⟨0x0700, a, b, c, d⟩) selectRow_setcarver
  · rw [exec_setcarver, complete_eq_answered, scramble_eq_seed48, carverMix_eq]
  · rw [exec_setcarver, exec_setseed, carverMix_zero_zero]
  · rw [exec_setcarver, exec_setcarver, scramble_congr (setWidth_carverMix_congr b c ha)]

/-- Settles O23: each `NEXTLONG` starts from the state the command before it left, so the two responses are the longs
of `carverMix_eq_result64`. -/
theorem setcarverExpansion : Obligations.SetcarverExpansion := by
  unfold Obligations.SetcarverExpansion
  intro w cx cz s
  refine ⟨_, _, _, _, _, _, _, exec_setseed w s, exec_nextlong _, complete_rsp _ _ _, exec_nextlong _,
    complete_rsp _ _ _, exec_setseed _ _, exec_setcarver w cx cz s, ?_⟩
  simp only [complete_state, carverMix_eq_result64]

end Sys2Proof.Proofs
end

section
/-! SUPPORT. The status of a command's answer (spec/60_exceptions.md R66, R68, R69): inside its domain a command
completes, outside it the operand is illegal, and which it is can be read off the word and `cmd_b`. -/

namespace Sys2Proof

open Sys2Proof.Machine Sys2Proof.Claims

/-- R66: the domain of `NEXT`. -/
theorem wf_next_iff (n : BitVec 6) : (Instr.next n).wf = true ↔ 1 ≤ n.toNat ∧ n.toNat ≤ 32 := by
  rw [Instr.wf, Bool.and_eq_true, decide_eq_true_iff, decide_eq_true_iff]

/-- R66: the domain of `NEXTINT`. -/
theorem wf_nextint_iff (b : Word32) : (Instr.nextint b).wf = true ↔ b.msb = false := by
  have hwf : (Instr.nextint b).wf = !b.msb := boundInDomain_boundOperand b
  rw [hwf, Bool.not_eq_true']

/-- R37, R68: a word of `NEXT`'s row has an illegal operand when its immediate is 0 or at least 33. -/
theorem operandIllegal_next_iff (n : BitVec 6) (b : Word32) :
    OperandIllegal (0x0200#16 ||| n.setWidth 16).toNat b ↔ n.toNat = 0 ∨ 33 ≤ n.toNat := by
  obtain ⟨hrow, himm⟩ := selectRow_next n
  have hopc := (and_nextMask_eq_iff _).1 (selectRow_some hrow).2
  have hbits := imm6_toNat (0x0200#16 ||| n.setWidth 16)
  rw [himm] at hbits
  rw [OperandIllegal]
  omega

/-- R68, R69: a command that decodes is outside its domain exactly when its operand is illegal. -/
theorem operandIllegal_iff_of_decode {p : Command} {i : Instr} (h : decode p = .ok i) :
    OperandIllegal p.word.toNat p.b ↔ ¬ i.wf = true := by
  rw [← encode_word_of_decode h]
  cases i with
  | next n =>
    rw [wf_next_iff, encode, operandIllegal_next_iff]
    omega
  | nextint b =>
    have hb : b = p.b := Instr.nextint.inj (eq_takeOperands_of_decode h)
    simp [wf_nextint_iff, encode, OperandIllegal, hb]
  | setseed _ | nextlong | nextfloat | setregion _ _ _ _ | setcarver _ _ _ =>
    simp [Instr.wf, encode, OperandIllegal]

/-- R40, R68: what decodes has a legal word. -/
theorem not_wordIllegal_of_decode {p : Command} {i : Instr} (h : decode p = .ok i) : ¬ WordIllegal p.word.toNat := by
  intro hillegal
  cases h.symm.trans ((decode_eq_error_iff p _).2 ⟨hillegal, rfl⟩)

/-- R69: an illegal word comes before an illegal operand. -/
theorem not_operandIllegal_of_wordIllegal {w : Nat} {b : Word32} (h : WordIllegal w) : ¬ OperandIllegal w b := by
  rw [WordIllegal] at h
  rw [OperandIllegal]
  omega

end Sys2Proof

namespace Sys2Proof.Machine

open Sys2Proof.Claims

/-- R66: inside its domain every command completes with `OK`. -/
theorem exists_exec_eq_answered_ok {i : Instr} (h : i.wf = true) (s : State) :
    ∃ (x : Word48) (d : Word64), exec i s = .next (answered s x ⟨.ok, d⟩) := by
  cases i with
  | setseed a => exact ⟨_, _, exec_setseed a s⟩
  | next n => exact ⟨_, _, exec_next_of_inDomain ((bitsInDomain_iff _).2 ((wf_next_iff n).1 h)) s⟩
  | nextint b =>
    obtain ⟨x, n, hexec, -, -⟩ := exists_exec_nextint_eq_answered ((wf_nextint_iff b).1 h) s
    exact ⟨x, _, hexec⟩
  | nextlong => exact ⟨_, _, exec_nextlong s⟩
  | nextfloat => exact ⟨_, _, exec_nextfloat s⟩
  | setregion a b c d => exact ⟨_, _, exec_setregion a b c d s⟩
  | setcarver a b c => exact ⟨_, _, exec_setcarver a b c s⟩

/-- R68, R70: outside its domain a command is answered with `ILLEGAL_OPERAND`. -/
theorem exec_of_not_wf {i : Instr} (h : ¬ i.wf = true) (s : State) :
    exec i s = .next (s.takeError .illegalOperand) := by
  cases i with
  | next n => exact exec_next_of_not_inDomain (fun hdom => h ((wf_next_iff n).2 ((bitsInDomain_iff _).1 hdom))) s
  | nextint b => exact exec_nextint_of_not_inDomain h s
  | setseed _ | nextlong | nextfloat | setregion _ _ _ _ | setcarver _ _ _ => exact absurd rfl h

/-- R68, R69: every accepted command is answered, with the status its word and `cmd_b` cause. -/
theorem runCommand_status (p : Command) (s : State) :
    ∃ (x : Word48) (r : Response), runCommand p s = .next (answered s x r) ∧
      (r.status = .illegalCommand ↔ WordIllegal p.word.toNat) ∧
      (r.status = .illegalOperand ↔ OperandIllegal p.word.toNat p.b) := by
  cases hdec : decode p with
  | error e =>
    obtain ⟨hword, -⟩ := (decode_eq_error_iff p e).1 hdec
    refine ⟨_, _, runCommand_of_decode_error hdec s, ?_, ?_⟩
    · exact iff_of_true rfl hword
    · exact iff_of_false nofun (not_operandIllegal_of_wordIllegal hword)
  | ok i =>
    have hword := not_wordIllegal_of_decode hdec
    have hoperand := operandIllegal_iff_of_decode hdec
    rw [runCommand_of_decode hdec]
    by_cases hwf : i.wf = true
    · obtain ⟨x, d, hexec⟩ := exists_exec_eq_answered_ok hwf s
      exact ⟨x, _, hexec, iff_of_false nofun hword, iff_of_false nofun fun ho => hoperand.1 ho hwf⟩
    · exact ⟨_, _, exec_of_not_wf hwf s, iff_of_false nofun hword, iff_of_true rfl (hoperand.2 hwf)⟩

end Sys2Proof.Machine

namespace Sys2Proof.Proofs

open Sys2Proof.Machine Sys2Proof.Claims

/-- Settles O33: `runCommand_status` with the host's list moved on. -/
theorem statusCausesAreExhaustive : Obligations.StatusCausesAreExhaustive := by
  unfold Obligations.StatusCausesAreExhaustive
  intro s p rest hhost
  obtain ⟨x, r, hrun, hcommand, hoperand⟩ := runCommand_status p (s.withHost rest)
  exact ⟨_, r, (step_of_command hhost).trans hrun, rfl, hcommand, hoperand⟩

/-- Settles O35. -/
theorem inDomainCommandsAreOk : Obligations.InDomainCommandsAreOk := by
  unfold Obligations.InDomainCommandsAreOk
  exact fun i s hwf => exists_exec_eq_answered_ok hwf s

/-- Settles O34: the response on the port is the one `answersFrom_runCommand` gives, which leaves `state` and carries
data 0 when it is not `OK`. -/
theorem nonOkCommandChangesNothing : Obligations.NonOkCommandChangesNothing := by
  unfold Obligations.NonOkCommandChangesNothing
  intro s t p rest r hhost hstep hrsp hne
  obtain ⟨x, ⟨status, data⟩, herr, hrun⟩ := answersFrom_runCommand s.state p
  cases ((step_of_command hhost).trans (hrun (s.withHost rest) rfl)).symm.trans hstep
  cases hrsp
  obtain ⟨rfl, rfl⟩ := herr hne
  exact ⟨rfl, rfl⟩

end Sys2Proof.Proofs
end

section
/-! SUPPORT. Runs without a command (spec/60_exceptions.md R80) and runs of legal commands inside their domains
(spec/60_exceptions.md R66, R71; spec/70_reset_and_hazards.md R88, R90). -/

namespace Sys2Proof.Machine

open Sys2Proof.Claims

/-- R89: an idle cycle, whether the host asks for it or has nothing left to do. -/
theorem step_of_idle_or_nil {s : State} {rest : List HostEvent}
    (h : s.host = .idle :: rest ∨ (s.host = [] ∧ rest = [])) : step s = .next (s.withHost rest).idleCycle := by
  obtain h | ⟨h, rfl⟩ := h
  · rw [step, h]
  · rw [step_of_nil h, ← h, withHost_self]

theorem commandsInDomain_command {p : Command} {rest : List HostEvent}
    (h : commandsInDomain (.command p :: rest) = true) :
    ∃ i, decode p = .ok i ∧ i.wf = true ∧ commandsInDomain rest = true := by
  cases hdec : decode p with
  | ok i =>
    simp only [commandsInDomain, hdec, Bool.and_eq_true] at h
    exact ⟨i, rfl, h⟩
  | error e => simp [commandsInDomain, hdec] at h

theorem commandsInDomain_tail {events : List HostEvent} (h : commandsInDomain events = true) :
    commandsInDomain events.tail = true := by
  cases events with
  | nil => exact h
  | cons e rest =>
    cases e with
    | idle | reset | resetDuring _ => exact h
    | command p =>
      obtain ⟨_, -, -, hrest⟩ := commandsInDomain_command h
      exact hrest

/-- An `OK` answer keeps a run one of `OK` responses alone (R90). -/
theorem allOk_answered_ok {s : State} (h : s.allOk = true) (x : Word48) (d : Word64) :
    (answered s x ⟨.ok, d⟩).allOk = true := by
  rw [State.allOk] at h
  simp [State.allOk, answered, h]

/-- R66, R71: a step of a good run completes and leaves the run good. -/
theorem exists_step_allOk {s : State} (hok : s.allOk = true) (hdom : commandsInDomain s.host = true) :
    ∃ t, step s = .next t ∧ t.allOk = true ∧ commandsInDomain t.host = true := by
  have hrest := commandsInDomain_tail hdom
  obtain h | h | ⟨p, -, -, hhost, -, -⟩ := step_cases s
  · exact ⟨_, h, hok, hrest⟩
  · exact ⟨_, h, rfl, hrest⟩
  · rw [hhost] at hdom
    obtain ⟨i, hdec, hwf, -⟩ := commandsInDomain_command hdom
    obtain ⟨x, d, hexec⟩ := exists_exec_eq_answered_ok hwf (s.withHost s.host.tail)
    rw [step_of_command hhost, runCommand_of_decode hdec]
    exact ⟨_, hexec, allOk_answered_ok hok x d, hrest⟩

end Sys2Proof.Machine

namespace Sys2Proof.Proofs

open Sys2Proof.Machine

/-- Settles O43: each case of `step_cases` is a next state, the command's because `NEXTINT`'s loop ends (R57). -/
theorem stepNeverStops : Obligations.StepNeverStops := by
  unfold Obligations.StepNeverStops
  exact exists_step_eq_next

/-- Settles O46, by induction on the number of steps. -/
theorem goodRunsAreAllOk : Obligations.GoodRunsAreAllOk := by
  unfold Obligations.GoodRunsAreAllOk
  intro k
  induction k with
  | zero => exact fun s hok hdom => ⟨s, rfl, hok, hdom⟩
  | succ k ih =>
    intro s hok hdom
    obtain ⟨t, hstep, hok', hdom'⟩ := exists_step_allOk hok hdom
    rw [runSteps_succ_of_step hstep]
    exact ih t hok' hdom'

/-- Settles O39: the step is `idleCycle`, which leaves `state` and the record and takes the response away. -/
theorem idleCycleKeepsTheState : Obligations.IdleCycleKeepsTheState := by
  unfold Obligations.IdleCycleKeepsTheState
  intro s rest hhost
  exact ⟨_, step_of_idle_or_nil hhost, rfl, rfl, rfl, rfl, rfl, rfl⟩

end Sys2Proof.Proofs
end

section
/-! SUPPORT. Reset and the hazard of drawing unseeded (spec/70_reset_and_hazards.md R81 to R83, R87): what a reset step
does, what R83 asks of the host at each command, and two runs from states that differ in `state` alone, compared step by
step. -/

namespace Sys2Proof.Machine

open Sys2Proof.Claims

/-! Reset, and the port that shows `state`. -/

/-- R81: a reset is the same step whether or not a command is in progress. -/
theorem step_of_reset_or_resetDuring {s : State} {rest : List HostEvent}
    (h : s.host = .reset :: rest ∨ ∃ p, s.host = .resetDuring p :: rest) :
    step s = .next (s.withHost rest).assertReset := by
  obtain h | ⟨p, h⟩ := h
  · rw [step, h]
  · rw [step, h]

/-- R47, R87: the seed made from `state_o` scrambles to the content it was made from. -/
theorem scramble_zext_xor (x : Word48) : scramble (x.setWidth 64 ^^^ 0x5DEECE66D#64) = x := by
  have hseed : (x.setWidth 64 ^^^ 0x5DEECE66D#64).setWidth 48 = x ^^^ 0x5DEECE66D#48 := by
    rw [BitVec.setWidth_xor, BitVec.setWidth_setWidth_of_le _ (by decide), BitVec.setWidth_eq]
    rfl
  rw [scramble_eq, hseed, BitVec.xor_assoc, BitVec.xor_self, BitVec.xor_zero]

/-! What R83 asks of the host at a command. -/

/-- R83: a seeding command seeds the rest of the run. -/
theorem seedsBeforeDrawing_of_isSeeding {seeded : Bool} {p : Command} {i : Instr} {rest : List HostEvent}
    (hdec : decode p = .ok i) (hi : isSeeding i = true)
    (h : seedsBeforeDrawing seeded (.command p :: rest) = true) : seedsBeforeDrawing true rest = true := by
  simpa only [seedsBeforeDrawing, hdec, hi, if_true] using h

/-- R83: a draw comes after seeding alone, and leaves the run seeded. -/
theorem seedsBeforeDrawing_of_not_isSeeding {seeded : Bool} {p : Command} {i : Instr} {rest : List HostEvent}
    (hdec : decode p = .ok i) (hi : ¬ isSeeding i = true)
    (h : seedsBeforeDrawing seeded (.command p :: rest) = true) :
    seeded = true ∧ seedsBeforeDrawing seeded rest = true := by
  simpa only [seedsBeforeDrawing, hdec, if_neg hi, Bool.and_eq_true] using h

/-- R83: an illegal word neither seeds nor draws. -/
theorem seedsBeforeDrawing_of_decode_error {seeded : Bool} {p : Command} {e : Reject} {rest : List HostEvent}
    (hdec : decode p = .error e) (h : seedsBeforeDrawing seeded (.command p :: rest) = true) :
    seedsBeforeDrawing seeded rest = true := by
  simpa only [seedsBeforeDrawing, hdec] using h

/-! Two runs side by side. -/

/-- What R83 keeps between a run in `s` and the run in `s` with `x` in its `state`: once seeded they are the same run, and
the host goes on to seed before it draws. -/
structure AgreeOnceSeeded (seeded : Bool) (s : State) (x : Word48) : Prop where
  state_eq : seeded = true → x = s.state
  host_seeds : seedsBeforeDrawing seeded s.host = true

/-- The block in `s` and the one that holds `x` instead both take a step, to states that again differ in `state` alone and
on which R83's protection stands. -/
def StepsInAgreement (s : State) (x : Word48) : Prop :=
  ∃ (seeded : Bool) (t : State) (y : Word48), step s = .next t ∧
    step { s with state := x } = .next { t with state := y } ∧ AgreeOnceSeeded seeded t y

/-- R83: a seeding command brings the two states together, a draw comes only once they are together, and an illegal word
leaves both. -/
theorem stepsInAgreement_of_command {seeded : Bool} {s : State} {x : Word48} {p : Command} {rest : List HostEvent}
    (hhost : s.host = .command p :: rest) (h : AgreeOnceSeeded seeded s x) : StepsInAgreement s x := by
  obtain ⟨hx, hseeds⟩ := h
  rw [hhost] at hseeds
  have hs : step s = runCommand p (s.withHost rest) := step_of_command hhost
  have hu : step { s with state := x } = runCommand p (({ s with state := x } : State).withHost rest) :=
    step_of_command hhost
  cases hdec : decode p with
  | error e =>
    have hrun := runCommand_of_decode_error hdec
    exact ⟨seeded, _, x, hs.trans (hrun _), hu.trans (hrun _), hx, seedsBeforeDrawing_of_decode_error hdec hseeds⟩
  | ok i =>
    rw [runCommand_of_decode hdec] at hs hu
    by_cases hi : isSeeding i = true
    · obtain ⟨v, hv⟩ := exists_exec_eq_complete_of_isSeeding hi
      exact ⟨true, _, v, hs.trans (hv _), hu.trans (hv _), fun _ => rfl, seedsBeforeDrawing_of_isSeeding hdec hi hseeds⟩
    · obtain ⟨rfl, hrest⟩ := seedsBeforeDrawing_of_not_isSeeding hdec hi hseeds
      obtain rfl := hx rfl
      obtain ⟨y, r, -, hexec⟩ := answersFrom_exec s.state i
      exact ⟨true, _, y, hs.trans (hexec _ rfl), hu.trans (hexec _ rfl), fun _ => rfl, hrest⟩

/-- R81, R83: after a reset the two runs are unseeded again, whatever each holds. -/
theorem stepsInAgreement_of_reset_or_resetDuring {s : State} {x : Word48} {rest : List HostEvent}
    (hhost : s.host = .reset :: rest ∨ ∃ p, s.host = .resetDuring p :: rest) (h : seedsBeforeDrawing false rest = true) :
    StepsInAgreement s x :=
  ⟨false, _, _, step_of_reset_or_resetDuring hhost, step_of_reset_or_resetDuring hhost, nofun, h⟩

/-- R83: every step keeps the two runs together. -/
theorem stepsInAgreement_of_agreeOnceSeeded {seeded : Bool} {s : State} {x : Word48} (h : AgreeOnceSeeded seeded s x) :
    StepsInAgreement s x := by
  cases hhost : s.host with
  | nil =>
    exact ⟨seeded, s.idleCycle, x, step_of_nil hhost, step_of_nil hhost, h.state_eq, h.host_seeds⟩
  | cons e rest =>
    have hseeds := h.host_seeds
    rw [hhost] at hseeds
    cases e with
    | idle =>
      exact ⟨seeded, _, x, step_of_idle_or_nil (.inl hhost), step_of_idle_or_nil (.inl hhost), h.state_eq, hseeds⟩
    | reset => exact stepsInAgreement_of_reset_or_resetDuring (.inl hhost) hseeds
    | resetDuring p => exact stepsInAgreement_of_reset_or_resetDuring (.inr ⟨p, hhost⟩) hseeds
    | command p => exact stepsInAgreement_of_command hhost h

/-- R83 over a whole run, by induction on the number of steps. -/
theorem exists_runSteps_eq_update_state {seeded : Bool} {s : State} {x : Word48} (h : AgreeOnceSeeded seeded s x)
    (k : Nat) : ∃ (t : State) (y : Word48), runSteps k s = .next t ∧
      runSteps k { s with state := x } = .next { t with state := y } := by
  induction k generalizing seeded s x with
  | zero => exact ⟨s, x, rfl, rfl⟩
  | succ k ih =>
    obtain ⟨_, t, y, hs, hu, hagree⟩ := stepsInAgreement_of_agreeOnceSeeded h
    rw [runSteps_succ_of_step hs, runSteps_succ_of_step hu]
    exact ih hagree

end Sys2Proof.Machine

namespace Sys2Proof.Proofs

open Sys2Proof.Machine Sys2Proof.Claims

/-- Settles O45: unseeded, the two runs differ in `state` alone, and every step keeps that. -/
theorem seededRunsIgnoreTheResetValue : Obligations.SeededRunsIgnoreTheResetValue := by
  unfold Obligations.SeededRunsIgnoreTheResetValue
  intro k s x hseeds
  obtain ⟨t, y, ht, hu⟩ := exists_runSteps_eq_update_state (seeded := false) (x := x) ⟨nofun, hseeds⟩ k
  exact ⟨t, _, ht, hu, rfl, rfl, rfl⟩

/-- Settles O12: the command scrambles its seed, and scrambling this one gives `state` back. -/
theorem copyThroughStatePort : Obligations.CopyThroughStatePort := by
  unfold Obligations.CopyThroughStatePort
  intro s t
  rw [exec_setseed, complete_eq_answered, State.stateO, scramble_zext_xor]

/-- Settles O38: the step is `assertReset` with the host's list moved on. -/
theorem resetEventForgets : Obligations.ResetEventForgets := by
  unfold Obligations.ResetEventForgets
  intro s p rest hhost
  exact step_of_reset_or_resetDuring (hhost.imp_right fun h => ⟨p, h⟩)

/-- Settles O40. -/
theorem afterReset : Obligations.AfterReset :=
  ⟨rfl, rfl, rfl, rfl, rfl, rfl⟩

end Sys2Proof.Proofs
end
